-- ==== Sys2Proof/Word.lean ====
section
/-! DEFINITION. The word types of the core (spec/00_scope.md R10, R11): every register of width `w` holds a
value `v` with `0 <= v < 2^w`, so a register is a bit vector of its width. The arithmetic of the commands is exact
arithmetic on the naturals such a register stands for (R11, R123); no operation wraps at a register's width. -/

namespace Sys2Proof

/-- A `W`-bit register, `W = 256` (R10): field elements, coordinates, scalars, moduli. -/
abbrev Word := BitVec 256

/-- The `H`-bit digest register `E`, `H = 256` (R10). -/
abbrev Digest := BitVec 256

/-- A `CW`-bit register, `CW = 32` (R10): the command word `CMD` and `STATUS`. -/
abbrev CmdWord := BitVec 32

/-- A 1-bit register: the point tags `INF1`, `INF2`, `RINF` and the boolean result `FLAG` (R22). -/
abbrev Bit := BitVec 1

/-- A byte of a message or of a digest before the host turns it into a number (R67, R182); the core has none. -/
abbrev Byte := BitVec 8

end Sys2Proof
end

