-- ==== Sys2Proof/Syntax.lean ====
section
/-! DEFINITION. The syntax: the 15 commands (spec/30_encoding.md R95), the 26 register names (spec/10_state.md R22),
and the events of the core's single total order (spec/20_memory.md R72): host accesses, completion steps and reset. -/

namespace Sys2Proof

/-- A modulus selector (R94): selector bit 0 names the register `P`, selector bit 1 names `N`. -/
inductive ModSel where
  | p
  | n
  deriving DecidableEq, Repr

/-- The commands, one constructor per row of R95; formats `CF` and `CI` carry their selectors (R90). -/
inductive Instr where
  | nop
  | ldk1
  | fadd (ma mb : ModSel)
  | fsub (ma mb : ModSel)
  | fmul (ma mb : ModSel)
  | finv (mb : ModSel)
  | fdiv (ma mb : ModSel)
  | oncurve
  | padd
  | pdbl
  | smul
  | pubkey
  | keygen
  | sign
  | verify
  deriving DecidableEq, Repr

/-- The names of the 26 registers, in the order of R22. -/
inductive RegName where
  | p | a | b | gx | gy | n
  | opa | opb | x1 | y1 | inf1 | x2 | y2 | inf2 | k | d | e | r | s
  | res | rx | ry | rinf | flag
  | cmd | status
  deriving DecidableEq, Repr

/-- The events that can change the core (R20, R72). A `complete` event is the moment at which the command in
progress ends, which the program cannot choose (R72(c)); a host access names a register by its number (R60). -/
inductive Event where
  /-- `HostRead(num)` (R62). -/
  | read (num : Nat)
  /-- `HostWrite(num, v)` (R63). -/
  | write (num v : Nat)
  /-- The completion step of the core sequencer (R42). -/
  | complete
  /-- The `reset` input (R270). -/
  | reset
  deriving DecidableEq, Repr

end Sys2Proof
end

