-- ==== Sys2Proof/Machine/RegisterMap.lean ====
section
/-! DEFINITION. The register map of spec/10_state.md R22 (numbers, widths, access rights) and spec/20_memory.md
R66, R70 (which numbers are unmapped). -/

namespace Sys2Proof.Machine

/-- The register number (R22). -/
def regNumber : RegName → Nat
  | .p => 0x00 | .a => 0x01 | .b => 0x02 | .gx => 0x03 | .gy => 0x04 | .n => 0x05
  | .opa => 0x10 | .opb => 0x11
  | .x1 => 0x12 | .y1 => 0x13 | .inf1 => 0x14
  | .x2 => 0x15 | .y2 => 0x16 | .inf2 => 0x17
  | .k => 0x18 | .d => 0x19 | .e => 0x1A | .r => 0x1B | .s => 0x1C
  | .res => 0x20 | .rx => 0x21 | .ry => 0x22 | .rinf => 0x23 | .flag => 0x24
  | .cmd => 0x30 | .status => 0x31

/-- The width in bits (R22, R61): `W` and `H` are 256, `CW` is 32, the tags and `FLAG` have one bit. -/
def regWidth : RegName → Nat
  | .inf1 | .inf2 | .rinf | .flag => 1
  | .cmd | .status => 32
  | .p | .a | .b | .gx | .gy | .n | .opa | .opb | .x1 | .y1 | .x2 | .y2 | .k | .d | .e | .r | .s
  | .res | .rx | .ry => 256

/-- The host's right on a register that is not `CMD` is to write it (R22, R31): false for the read-only ones (R65). -/
def regWritable : RegName → Bool
  | .res | .rx | .ry | .rinf | .flag | .status => false
  | .p | .a | .b | .gx | .gy | .n | .opa | .opb | .x1 | .y1 | .inf1 | .x2 | .y2 | .inf2
  | .k | .d | .e | .r | .s | .cmd => true

/-- The 26 register names, by rising number (R22). -/
def allRegs : List RegName :=
  [.p, .a, .b, .gx, .gy, .n, .opa, .opb, .x1, .y1, .inf1, .x2, .y2, .inf2, .k, .d, .e, .r, .s] ++
  [.res, .rx, .ry, .rinf, .flag, .cmd, .status]

/-- The register mapped at a number; `none` for the unmapped numbers of R66. -/
def regAt (num : Nat) : Option RegName := allRegs.find? fun reg => regNumber reg == num

/-- The numbers that exist on the host port are `0x00` to `0x3F` (R60, R66). -/
def onPort (num : Nat) : Bool := num ≤ 0x3F

/-- `HostWrite(num, v)` has `0 <= v < 2^width` (R63); an unmapped number has no width. -/
def fitsRegister (num v : Nat) : Bool :=
  match regAt num with
  | some reg => v < 2 ^ regWidth reg
  | none => true

end Sys2Proof.Machine
end

