-- ==== Sys2Proof/WellFormed.lean ====
section
/-! DEFINITION. Well-formed terms. A command's only operands are selector bits (spec/30_encoding.md R91, R94), and
the type of a selector has exactly the two values of that bit, so every command is well formed. A host access is well
formed when its number exists on the port (spec/20_memory.md R60, R66) and its value fits the register (R61, R63). -/

namespace Sys2Proof

/-- Every command is well formed: no operand can be outside the encoding (R90, R91). -/
def Instr.wf : Instr → Bool
  | .nop | .ldk1 | .oncurve | .padd | .pdbl | .smul | .pubkey | .keygen | .sign | .verify => true
  | .fadd _ _ | .fsub _ _ | .fmul _ _ | .fdiv _ _ => true
  | .finv _ => true

/-- A host access that exists on the port (R60, R61, R63, R66). -/
def Event.wf : Event → Bool
  | .read num => Machine.onPort num
  | .write num v => Machine.onPort num && Machine.fitsRegister num v
  | .complete | .reset => true

end Sys2Proof
end

