-- ==== Sys2Proof/Decode.lean ====
section
/-! DEFINITION. Decoding (spec/30_encoding.md R90, R94 to R98) and, after it, the encoder written from the same
tables. The command word is one 32-bit number with no byte order (R67, R90). -/

namespace Sys2Proof

/-- `v[hi:lo]` is `floor(v / 2^lo) mod 2^(hi-lo+1)` (spec/00_scope.md R11). -/
def slice (v hi lo : Nat) : Nat := v / 2 ^ lo % 2 ^ (hi - lo + 1)

/-- Why a word is illegal (R98): a reserved opcode value, or a reserved field that is not 0. -/
inductive DecodeError where
  | reservedOpcode
  | reservedBits
  deriving DecidableEq, Repr

/-- The register a selector bit names (R94): 0 is `P`, 1 is `N`. -/
def selOf (bit : Nat) : ModSel := if bit = 0 then .p else .n

/-- Format `C0`: bits 31:8 must be 0 (R90). -/
def decodeC0 (v : Nat) (i : Instr) : Except DecodeError Instr :=
  if slice v 31 8 = 0 then .ok i else .error .reservedBits

/-- Format `CF`: bit 8 is `ma`, bit 9 is `mb`, bits 31:10 must be 0 (R90). -/
def decodeCF (v : Nat) (i : ModSel → ModSel → Instr) : Except DecodeError Instr :=
  if slice v 31 10 = 0 then .ok (i (selOf (slice v 8 8)) (selOf (slice v 9 9))) else .error .reservedBits

/-- Format `CI`: bit 9 is `mb`, bit 8 and bits 31:10 must be 0 (R90). -/
def decodeCI (v : Nat) (i : ModSel → Instr) : Except DecodeError Instr :=
  if slice v 31 10 = 0 ∧ slice v 8 8 = 0 then .ok (i (selOf (slice v 9 9))) else .error .reservedBits

/-- `decode(w)` of R96: total on the 32-bit words; an error is the spec's `illegal`. -/
def decode (w : CmdWord) : Except DecodeError Instr :=
  let v := w.toNat
  let op := slice v 7 0
  if op = 0x10 then decodeCF v .fadd
  else if op = 0x11 then decodeCF v .fsub
  else if op = 0x12 then decodeCF v .fmul
  else if op = 0x14 then decodeCF v .fdiv
  else if op = 0x13 then decodeCI v .finv
  else if op = 0x00 then decodeC0 v .nop
  else if op = 0x01 then decodeC0 v .ldk1
  else if op = 0x20 then decodeC0 v .oncurve
  else if op = 0x21 then decodeC0 v .padd
  else if op = 0x22 then decodeC0 v .pdbl
  else if op = 0x23 then decodeC0 v .smul
  else if op = 0x24 then decodeC0 v .pubkey
  else if op = 0x30 then decodeC0 v .keygen
  else if op = 0x31 then decodeC0 v .sign
  else if op = 0x32 then decodeC0 v .verify
  else .error .reservedOpcode

/-- The decoder on a row of the opcode table: `nbits` bits of `w`, the bits above them 0 (host interface). -/
def decodeTableWord (nbits w : Nat) : Option Instr :=
  if nbits ≤ 32 then (decode (BitVec.ofNat 32 (w % 2 ^ nbits))).toOption else none

/-- The selector bit of a modulus register (R94). -/
def selBit : ModSel → Nat
  | .p => 0
  | .n => 1

/-- A word with an opcode in bits 7:0, `ma` in bit 8 and `mb` in bit 9 (R90). -/
def packWord (op ma mb : Nat) : CmdWord := BitVec.ofNat 32 (op + 2 ^ 8 * ma + 2 ^ 9 * mb)

/-- The word of a command (R90, R95). -/
def encode : Instr → CmdWord
  | .nop => packWord 0x00 0 0
  | .ldk1 => packWord 0x01 0 0
  | .fadd ma mb => packWord 0x10 (selBit ma) (selBit mb)
  | .fsub ma mb => packWord 0x11 (selBit ma) (selBit mb)
  | .fmul ma mb => packWord 0x12 (selBit ma) (selBit mb)
  | .finv mb => packWord 0x13 0 (selBit mb)
  | .fdiv ma mb => packWord 0x14 (selBit ma) (selBit mb)
  | .oncurve => packWord 0x20 0 0
  | .padd => packWord 0x21 0 0
  | .pdbl => packWord 0x22 0 0
  | .smul => packWord 0x23 0 0
  | .pubkey => packWord 0x24 0 0
  | .keygen => packWord 0x30 0 0
  | .sign => packWord 0x31 0 0
  | .verify => packWord 0x32 0 0

end Sys2Proof
end

