-- ==== Sys2Proof/Config.lean ====
section
/-! DEFINITION. What is fixed for the core and not state: the secp256k1 preset (spec/43_control.md R214), and the
values the spec leaves open, each an opaque constant with no body. `sha256` is the spec's open parameter `SHA256`
(R182, D26); `busyRead` and `randomAnswer` are the draws of R31 and R44, applied to counters of `State`. -/

namespace Sys2Proof.Config

/-- `p = 2^256 - 2^32 - 977` (R214). -/
def presetP : Word := 0xFFFFFFFFFFFFFFFFFFFFFFFFFFFFFFFFFFFFFFFFFFFFFFFFFFFFFFFEFFFFFC2F#256
/-- `a = 0` (R214). -/
def presetA : Word := 0#256
/-- `b = 7` (R214). -/
def presetB : Word := 7#256
/-- `G_x` (R214). -/
def presetGX : Word := 0x79BE667EF9DCBBAC55A06295CE870B07029BFCDB2DCE28D959F2815B16F81798#256
/-- `G_y` (R214). -/
def presetGY : Word := 0x483ADA7726A3C4655DA4FBFC0E1108A8FD17B448A68554199C47D08FFB10D4B8#256
/-- The group order `n` (R214). -/
def presetN : Word := 0xFFFFFFFFFFFFFFFFFFFFFFFFFFFFFFFEBAAEDCE6AF48A03BBFD25E8CD0364141#256

/-- FREE VALUE (log entry 8): what the host port returns for the i-th read of a register other than `STATUS`
while a command is in progress (R31, R62, U1). The low bits, as many as the register has, are the value read. -/
opaque busyRead : Nat → Word

/-- FREE VALUE (log entry 7): the outcome of the i-th rejection loop that finds no answer listed in
`Env.rng` (R44, R184): `none` is a failure of the source, `some v` stands for `1 + v mod (n - 1)`. -/
opaque randomAnswer : Nat → Option Nat

/-- OPEN PARAMETER `SHA256` (R182, D26): the hash the environment provides, bytes in, 32 bytes out. No command reads it. -/
opaque sha256 : List Byte → Vector Byte 32

end Sys2Proof.Config
end

