-- ==== Sys2Proof/Machine/Values.lean ====
section
/-! DEFINITION. The value-level types the rules speak of: error kinds (spec/60_exceptions.md R231), results
`Ok v` / `Err kind` (spec/00_scope.md R12, R14), points as a tagged variant (R13) and the curve triple (R150). Values
are naturals: every value of the core is unsigned and exact (R11, R123). -/

namespace Sys2Proof.Machine

/-- The nine error kinds (R231). -/
inductive ErrorKind where
  | fieldMismatch
  | divideByZero
  | offCurve
  | invalidPoint
  | badNonce
  | rngFailure
  | internal
  | illegalCmd
  | operandRange
  deriving DecidableEq, Repr

/-- `Ok v` or `Err kind` (R12). -/
abbrev Result := Except ErrorKind

/-- A point is `Inf` or `Aff(x, y)` (R12, R13). -/
inductive Point where
  | inf
  | aff (x y : Nat)
  deriving DecidableEq, Repr

/-- The curve `(a, b, p)`: y^2 = x^3 + a*x + b mod p (R150). -/
structure Curve where
  a : Nat
  b : Nat
  p : Nat
  deriving DecidableEq, Repr

/-- What KEYGEN, SIGN and VERIFY take from the context: the curve, the base point, the group order (R183). -/
structure EcdsaCtx where
  c : Curve
  g : Point
  n : Nat
  deriving DecidableEq, Repr

end Sys2Proof.Machine
end

