-- ==== Sys2Proof/Machine/State.lean ====
section
/-! DEFINITION. The whole architectural state of spec/10_state.md R21: the 26 registers of R22 and the phase of R40
with its snapshot; beside it, as plain data, the inputs of the step relation that R21 names (the host's accesses, the
moments of completion, the random answers), which are the environment's and not the core's. -/

namespace Sys2Proof.Machine

/-- The 26 registers of R22, in the order of their numbers. -/
structure Regs where
  p : Word
  a : Word
  b : Word
  gx : Word
  gy : Word
  n : Word
  opa : Word
  opb : Word
  x1 : Word
  y1 : Word
  inf1 : Bit
  x2 : Word
  y2 : Word
  inf2 : Bit
  k : Word
  d : Word
  e : Digest
  r : Word
  s : Word
  res : Word
  rx : Word
  ry : Word
  rinf : Bit
  flag : Bit
  cmd : CmdWord
  status : CmdWord
  deriving DecidableEq, Repr

/-- The phase (R40): `Busy(w, snap)` holds the word issued and the registers latched at its issue (R41). -/
inductive Phase where
  | idle
  | busy (w : CmdWord) (snap : Regs)
  deriving DecidableEq, Repr

/-- One answer of the random port (R44): a value, taken modulo the bound asked for (log entry 6), or the failure. -/
inductive RngAnswer where
  | value (v : Nat)
  | failure
  deriving DecidableEq, Repr

/-- DESIGN CHOICE (log entries 1, 6, 9). The environment of the core as plain data: the coming events of the total
order R72, what the host port answered so far (newest first), the coming answers of the random port, and the counters
that the two free values of Config are applied to. -/
structure Env where
  inputs : List Event
  reads : List Nat
  rng : List RngAnswer
  draws : Nat
  busyReads : Nat
  deriving DecidableEq, Repr

/-- The machine: the architectural state (R21) and its environment. -/
structure State where
  regs : Regs
  phase : Phase
  env : Env
  deriving DecidableEq, Repr

/-- Why the machine stops. No command and no well-formed host access raises one. -/
inductive Fault where
  /-- Raised by a host access whose number is above `0x3F`: such a number does not exist on the port (R66). Safe: the
  hardware cannot be given that access (log entry 5). -/
  | numberOffPort (num : Nat)
  /-- Raised by a host write of a value that does not fit its register: `0 <= v < 2^width` (R63), an access carries
  exactly the register's width (R213). Safe: the hardware cannot be given that access (log entry 5). -/
  | valueTooWide (num v : Nat)
  /-- Raised by a step of an idle core with `FATAL = 1` and no event to come: a run that ends so has failed, "a state
  with FATAL = 1 is a fault, not a final state" (R285, R238). Safe: the core itself takes no step there (log entry 3). -/
  | fatalAtRest
  deriving DecidableEq, Repr

/-- Why an instruction has no meaning. No arm of `exec` answers with it: every command is modelled. -/
inductive Refusal where
  /-- Raised by an arm of `exec` whose instruction is not modelled; there is none. Safe: the machine stops. -/
  | notModelled (mnemonic : String)
  deriving DecidableEq, Repr

/-- The registers after reset (R33): the secp256k1 preset in the context, 0 in every other register. -/
def Regs.reset : Regs where
  p := Config.presetP
  a := Config.presetA
  b := Config.presetB
  gx := Config.presetGX
  gy := Config.presetGY
  n := Config.presetN
  opa := 0
  opb := 0
  x1 := 0
  y1 := 0
  inf1 := 0
  x2 := 0
  y2 := 0
  inf2 := 0
  k := 0
  d := 0
  e := 0
  r := 0
  s := 0
  res := 0
  rx := 0
  ry := 0
  rinf := 0
  flag := 0
  cmd := 0
  status := 0

/-- The environment of a machine for which nothing has been arranged yet (DESIGN CHOICE, log entry 9). -/
def Env.reset : Env where
  inputs := []
  reads := []
  rng := []
  draws := 0
  busyReads := 0

/-- The machine right after reset (R33, R270). -/
def State.reset : State where
  regs := Regs.reset
  phase := .idle
  env := Env.reset

end Sys2Proof.Machine
end

