-- ==== Sys2Proof/Machine/Flags.lean ====
section
/-! DEFINITION. The fields of `STATUS` (spec/10_state.md R30), what issue and completion do to them (R30, R42,
spec/20_memory.md R64, spec/60_exceptions.md R236), and the error codes (R231). The core has no arithmetic condition
codes (R28). Reserved bits are never written (R30; log entry 13). -/

namespace Sys2Proof.Machine

/-- `BUSY`, bit 0 (R30). -/
def statusBusy (st : CmdWord) : Bool := st.getLsbD 0
/-- `DONE`, bit 1 (R30). -/
def statusDone (st : CmdWord) : Bool := st.getLsbD 1
/-- `FATAL`, bit 2 (R30). -/
def statusFatal (st : CmdWord) : Bool := st.getLsbD 2
/-- `ERRCODE`, bits 7:4 (R30). -/
def statusErr (st : CmdWord) : BitVec 4 := st.extractLsb' 4 4
/-- The reserved bits 3 and 31:8 hold 0 (R30: "reads 0", "never" written). -/
def statusReservedZero (st : CmdWord) : Bool := !st.getLsbD 3 && st.extractLsb' 8 24 == 0

/-- `STATUS` with one bit set to `b`. -/
def setStatusBit (i : Nat) (b : Bool) (st : CmdWord) : CmdWord :=
  if b then st ||| (1#32 <<< i) else st &&& ~~~(1#32 <<< i)

/-- `STATUS` with `ERRCODE` set to `code`. -/
def setStatusErr (code : BitVec 4) (st : CmdWord) : CmdWord :=
  (st &&& ~~~0xF0#32) ||| (code.setWidth 32 <<< 4)

/-- The code of an error kind (R231); 0 is no error. -/
def errorCode : ErrorKind → BitVec 4
  | .fieldMismatch => 1
  | .divideByZero => 2
  | .offCurve => 3
  | .invalidPoint => 4
  | .badNonce => 5
  | .rngFailure => 6
  | .internal => 7
  | .illegalCmd => 8
  | .operandRange => 9

/-- Issue: `DONE <- 0 ; ERRCODE <- 0 ; BUSY <- 1` (R64). -/
def issueStatus (st : CmdWord) : CmdWord :=
  setStatusBit 0 true (setStatusErr 0 (setStatusBit 1 false st))

/-- A completion with a code: `ERRCODE <- code ; DONE <- 1 ; BUSY <- 0` (R42, R236). -/
def completedStatus (code : BitVec 4) (st : CmdWord) : CmdWord :=
  setStatusBit 0 false (setStatusBit 1 true (setStatusErr code st))

/-- A successful completion: `ERRCODE <- 0` (R42, R211). -/
def successStatus (st : CmdWord) : CmdWord := completedStatus 0 st

/-- An error completion (R236): the kind's code, and `FATAL <- 1` if the kind is `INTERNAL` (R238). -/
def errorStatus (kind : ErrorKind) (st : CmdWord) : CmdWord :=
  let st' := completedStatus (errorCode kind) st
  if kind = .internal then setStatusBit 2 true st' else st'

/-- The level output `done`, equal to `STATUS.DONE` at all times (R45, R245). -/
def doneOutput (s : State) : Bool := statusDone s.regs.status

end Sys2Proof.Machine
end

