-- ==== Sys2Proof/Machine/Ops.lean ====
section
/-! DEFINITION. The shared operations: reading and writing a register (spec/10_state.md R22), the snapshot (R41),
the host primitives (spec/20_memory.md R62 to R66), the completion of a command with success or with an error
(R42, spec/60_exceptions.md R236), the random port (R44, spec/42_ecdsa.md R184) and reset (R270). -/

namespace Sys2Proof.Machine

/-! ## Registers -/

/-- The number a register holds. -/
def readReg (x : Regs) : RegName → Nat
  | .p => x.p.toNat
  | .a => x.a.toNat
  | .b => x.b.toNat
  | .gx => x.gx.toNat
  | .gy => x.gy.toNat
  | .n => x.n.toNat
  | .opa => x.opa.toNat
  | .opb => x.opb.toNat
  | .x1 => x.x1.toNat
  | .y1 => x.y1.toNat
  | .inf1 => x.inf1.toNat
  | .x2 => x.x2.toNat
  | .y2 => x.y2.toNat
  | .inf2 => x.inf2.toNat
  | .k => x.k.toNat
  | .d => x.d.toNat
  | .e => x.e.toNat
  | .r => x.r.toNat
  | .s => x.s.toNat
  | .res => x.res.toNat
  | .rx => x.rx.toNat
  | .ry => x.ry.toNat
  | .rinf => x.rinf.toNat
  | .flag => x.flag.toNat
  | .cmd => x.cmd.toNat
  | .status => x.status.toNat

/-- The registers with one of them holding `v`, which fits its width by R63. -/
def writeReg (x : Regs) (v : Nat) : RegName → Regs
  | .p => { x with p := BitVec.ofNat 256 v }
  | .a => { x with a := BitVec.ofNat 256 v }
  | .b => { x with b := BitVec.ofNat 256 v }
  | .gx => { x with gx := BitVec.ofNat 256 v }
  | .gy => { x with gy := BitVec.ofNat 256 v }
  | .n => { x with n := BitVec.ofNat 256 v }
  | .opa => { x with opa := BitVec.ofNat 256 v }
  | .opb => { x with opb := BitVec.ofNat 256 v }
  | .x1 => { x with x1 := BitVec.ofNat 256 v }
  | .y1 => { x with y1 := BitVec.ofNat 256 v }
  | .inf1 => { x with inf1 := BitVec.ofNat 1 v }
  | .x2 => { x with x2 := BitVec.ofNat 256 v }
  | .y2 => { x with y2 := BitVec.ofNat 256 v }
  | .inf2 => { x with inf2 := BitVec.ofNat 1 v }
  | .k => { x with k := BitVec.ofNat 256 v }
  | .d => { x with d := BitVec.ofNat 256 v }
  | .e => { x with e := BitVec.ofNat 256 v }
  | .r => { x with r := BitVec.ofNat 256 v }
  | .s => { x with s := BitVec.ofNat 256 v }
  | .res => { x with res := BitVec.ofNat 256 v }
  | .rx => { x with rx := BitVec.ofNat 256 v }
  | .ry => { x with ry := BitVec.ofNat 256 v }
  | .rinf => { x with rinf := BitVec.ofNat 1 v }
  | .flag => { x with flag := BitVec.ofNat 1 v }
  | .cmd => { x with cmd := BitVec.ofNat 32 v }
  | .status => { x with status := BitVec.ofNat 32 v }

/-- The registers a command's `x[NAME]` reads: the snapshot while a command is in progress (R41). With no command in
progress no rule reads a register; there the live registers stand for it (log entry 10). -/
def latched (s : State) : Regs :=
  match s.phase with
  | .idle => s.regs
  | .busy _ snap => snap

/-- `RES <- v` (R25). -/
def writeRes (v : Nat) (x : Regs) : Regs := { x with res := BitVec.ofNat 256 v }

/-- `FLAG <- 1 if b else 0` (R28). -/
def writeFlag (b : Bool) (x : Regs) : Regs := { x with flag := if b then 1 else 0 }

/-- The result point (R26): `Inf` writes `RINF <- 1, RX <- 0, RY <- 0`; `Aff(x, y)` writes `RINF <- 0, RX <- x, RY <- y`. -/
def writePoint (pt : Point) (x : Regs) : Regs :=
  match pt with
  | .inf => { x with rinf := 1, rx := 0, ry := 0 }
  | .aff px py => { x with rinf := 0, rx := BitVec.ofNat 256 px, ry := BitVec.ofNat 256 py }

/-- `D <- d` and the result point (R185). -/
def writeKeyPair (kp : Nat × Point) (x : Regs) : Regs :=
  writePoint kp.2 { x with d := BitVec.ofNat 256 kp.1 }

/-- `R <- r ; S <- s` (R186). -/
def writeSignature (sig : Nat × Nat) (x : Regs) : Regs :=
  { x with r := BitVec.ofNat 256 sig.1, s := BitVec.ofNat 256 sig.2 }

/-- The six context registers take the preset (R212, R214). -/
def writePreset (x : Regs) : Regs :=
  { x with
    p := Config.presetP, a := Config.presetA, b := Config.presetB
    gx := Config.presetGX, gy := Config.presetGY, n := Config.presetN }

/-! ## Completion -/

/-- A successful completion (R42): the result registers, `STATUS`, and the phase, in one step. -/
def succeed (write : Regs → Regs) (s : State) : State :=
  let x := write s.regs
  { s with regs := { x with status := successStatus x.status }, phase := .idle }

/-- TAKING AN ERROR (R236): `STATUS` and the phase, no other register. There is no return from it: the next issue
clears `ERRCODE` (R237), which `issueStatus` does. -/
def raiseError (kind : ErrorKind) (s : State) : State :=
  { s with regs := { s.regs with status := errorStatus kind s.regs.status }, phase := .idle }

/-- The completion of a command whose value-level outcome is `Ok v` or `Err kind` (R42, R236). -/
def complete {α : Type} (write : α → Regs → Regs) (outcome : Result α) (s : State) : State :=
  match outcome with
  | .ok v => succeed (write v) s
  | .error kind => raiseError kind s

/-! ## The random port -/

/-- The outcome of a rejection loop that is left to the free value (R184: "any v with 1 <= v < n", or the failure). -/
def freeDraw (n i : Nat) : Result Nat :=
  match Config.randomAnswer i with
  | none => .error .rngFailure
  | some v => .ok (1 + v % (n - 1))

/-- `draw_nonzero(n)` (R184), `n >= 2`, on the answers listed: an answer 0 is rejected and the next one asked for; with
none left the loop's outcome is free. Gives the outcome, the answers not asked for, and the counter. -/
def drawFrom (n i : Nat) : List RngAnswer → Result Nat × List RngAnswer × Nat
  | [] => (freeDraw n i, [], i + 1)
  | .failure :: rest => (.error .rngFailure, rest, i)
  | .value v :: rest => if v % n = 0 then drawFrom n i rest else (.ok (v % n), rest, i)

/-- `draw_nonzero(n)` (R184) against the machine's random port. -/
def drawNonzero (n : Nat) (s : State) : Result Nat × State :=
  match drawFrom n s.env.draws s.env.rng with
  | (outcome, rest, i) => (outcome, { s with env := { s.env with rng := rest, draws := i } })

/-- A command that draws (R185, R186, R241): its range checks first, with no draw if one fails; then the draw; then its
value-level function on the number drawn. A draw made by a command that fails is discarded (R236). -/
def completeWithDraw {α : Type} (write : α → Regs → Regs) (checks : Result EcdsaCtx)
    (f : EcdsaCtx → Nat → Result α) (s : State) : State :=
  match checks with
  | .error kind => raiseError kind s
  | .ok ec =>
    match drawNonzero ec.n s with
    | (drawn, s') => complete write (drawn.bind (f ec)) s'

/-! ## The host port -/

/-- Latching a command word (R64): `CMD <- w`, the snapshot, the `STATUS` bits, the phase. The snapshot is taken where
R64 takes it: after `CMD` is written and before `STATUS` changes. -/
def latchCommand (w : CmdWord) (s : State) : State :=
  let x := { s.regs with cmd := w }
  { s with regs := { x with status := issueStatus x.status }, phase := .busy w x }

/-- `issue(w)` (R64): no effect while `FATAL = 1` (R238). -/
def issue (w : CmdWord) (s : State) : State :=
  if statusFatal s.regs.status then s else latchCommand w s

/-- The free value of a busy read, of the register's width (R31, R62). -/
def busyReadValue (reg : RegName) (s : State) : Nat := (Config.busyRead s.env.busyReads).toNat % 2 ^ regWidth reg

/-- A value returned on the host port. -/
def answerRead (v : Nat) (s : State) : State := { s with env := { s.env with reads := v :: s.env.reads } }

/-- `HostRead(num)` (R62, R66). -/
def hostRead (num : Nat) (s : State) : State :=
  match regAt num with
  | none => answerRead 0 s
  | some .status => answerRead s.regs.status.toNat s
  | some reg =>
    if statusBusy s.regs.status then
      answerRead (busyReadValue reg s) { s with env := { s.env with busyReads := s.env.busyReads + 1 } }
    else answerRead (readReg s.regs reg) s

/-- `HostWrite(num, v)` (R63, R65, R66). -/
def hostWrite (num v : Nat) (s : State) : State :=
  match regAt num with
  | none => s
  | some reg =>
    if statusBusy s.regs.status then s
    else if regWritable reg = false then s
    else if reg = .cmd then issue (BitVec.ofNat 32 v) s
    else { s with regs := writeReg s.regs v reg }

/-- A read as the port carries it: a number above `0x3F` does not exist there (R66). -/
def portRead (num : Nat) (s : State) : Host.Outcome State Fault Refusal :=
  if onPort num then .next (hostRead num s) else .fault (.numberOffPort num)

/-- A write as the port carries it: the number exists (R66) and the value has the register's width (R63). -/
def portWrite (num v : Nat) (s : State) : Host.Outcome State Fault Refusal :=
  if onPort num then
    if fitsRegister num v then .next (hostWrite num v s) else .fault (.valueTooWide num v)
  else .fault (.numberOffPort num)

/-- Reset (R270, R271): every register and the phase take their reset values, in any phase; the environment is outside
the core and stays (log entry 9). -/
def resetInput (s : State) : State := { State.reset with env := s.env }

end Sys2Proof.Machine
end

