-- ==== Sys2Proof/Machine/Control.lean ====
section
/-! DEFINITION. The control commands NOP and LDK1 (spec/43_control.md R211, R212). -/

namespace Sys2Proof.Machine

/-- NOP (R211): a successful completion and nothing else. -/
def execNop (s : State) : Host.Outcome State Fault Refusal := .next (succeed id s)

/-- LDK1 (R212): the six context registers take the preset of R214. -/
def execLdk1 (s : State) : Host.Outcome State Fault Refusal := .next (succeed writePreset s)

end Sys2Proof.Machine
end

