-- ==== Sys2Proof/Machine/Operands.lean ====
section
/-! DEFINITION. Every operand form: checked and reducing construction of field elements (spec/40_field.md R120,
R121), the modulus selectors (spec/30_encoding.md R94), the preludes of the field commands (R122, R127), and the
registers read as curve values (spec/41_curve.md R150, R151, R164; spec/42_ecdsa.md R183). -/

namespace Sys2Proof.Machine

/-- `felt(v, m)` (R120). -/
def felt (v m : Nat) : Result Nat := if v < m then .ok v else .error .operandRange

/-- `reduce(v, m)`, `m >= 1` (R121). -/
def reduce (v m : Nat) : Nat := v % m

/-- `mod(sel) = x[modreg(sel)]` (R94). -/
def modulus (x : Regs) : ModSel → Nat
  | .p => x.p.toNat
  | .n => x.n.toNat

/-- `fprelude(ma, mb)` (R122): range of `a`, range of `b`, then the moduli; gives `(a, b, m)`. -/
def fprelude (ma mb : ModSel) (x : Regs) : Result (Nat × Nat × Nat) := do
  let a ← felt x.opa.toNat (modulus x ma)
  let b ← felt x.opb.toNat (modulus x mb)
  if modulus x ma ≠ modulus x mb then .error .fieldMismatch else .ok (a, b, modulus x ma)

/-- The operand of FINV and its modulus (R127). -/
def finvOperand (mb : ModSel) (x : Regs) : Result (Nat × Nat) := do
  let b ← felt x.opb.toNat (modulus x mb)
  .ok (b, modulus x mb)

/-- `ctx()` (R150). -/
def ctx (x : Regs) : Result Curve := do
  let a ← felt x.a.toNat x.p.toNat
  let b ← felt x.b.toNat x.p.toNat
  .ok ⟨a, b, x.p.toNat⟩

/-- `point(X, Y, I)` (R151) from the contents of the three registers and of `P`. -/
def pointOf (px py : Word) (tag : Bit) (p : Nat) : Result Point :=
  if tag = 1 then .ok .inf
  else do
    let u ← felt px.toNat p
    let v ← felt py.toNat p
    .ok (.aff u v)

/-- Point operand 1, `point(X1, Y1, INF1)` (R26, R151). -/
def point1 (x : Regs) : Result Point := pointOf x.x1 x.y1 x.inf1 x.p.toNat

/-- Point operand 2, `point(X2, Y2, INF2)` (R26, R151). -/
def point2 (x : Regs) : Result Point := pointOf x.x2 x.y2 x.inf2 x.p.toNat

/-- `basept()` (R164): always affine. -/
def basept (x : Regs) : Result Point := do
  let u ← felt x.gx.toNat x.p.toNat
  let v ← felt x.gy.toNat x.p.toNat
  .ok (.aff u v)

/-- `ectx()` (R183). -/
def ectx (x : Regs) : Result EcdsaCtx := do
  let c ← ctx x
  let g ← basept x
  .ok ⟨c, g, x.n.toNat⟩

/-- `ectx()` and the test `n < 2` of the commands that draw (R183). -/
def ectxDraw (x : Regs) : Result EcdsaCtx := do
  let ec ← ectx x
  if ec.n < 2 then .error .operandRange else .ok ec

end Sys2Proof.Machine
end

