-- ==== Sys2Proof/Machine/Field.lean ====
section
/-! DEFINITION. The field layer: the value-level functions of spec/40_field.md R123 and R129, and the commands FADD,
FSUB, FMUL, FINV, FDIV (R124 to R128). The product is the plain residue for every modulus, prime or not, odd or even
(R131, R132). -/

namespace Sys2Proof.Machine

/-- `fadd(a, b, m) = (a + b) mod m` (R123). -/
def fadd (a b m : Nat) : Nat := (a + b) % m

/-- `fsub(a, b, m) = (a + m - b) mod m` (R123). -/
def fsub (a b m : Nat) : Nat := (a + m - b) % m

/-- `fmul(a, b, m) = (a * b) mod m` (R123), the exact product. -/
def fmul (a b m : Nat) : Nat := a * b % m

/-- Square and multiply on the halves of the exponent, as many as `fuel`. -/
def powModFuel : Nat → Nat → Nat → Nat → Nat
  | 0, _, _, m => 1 % m
  | fuel + 1, b, e, m =>
    if e = 0 then 1 % m
    else
      let h := powModFuel fuel (b * b % m) (e / 2) m
      if e % 2 = 1 then b * h % m else h

/-- `b^e mod m`: "Any method that returns this value is allowed" (R129; log entry 12). `powMod_eq` (Laws/Arith.lean) proves the value. -/
def powMod (b e m : Nat) : Nat := powModFuel (e.log2 + 1) b e m

/-- `finv(b, m)` (R123). -/
def finv (b m : Nat) : Result Nat :=
  if b = 0 then .error .divideByZero else .ok (powMod b (m - 2) m)

/-- `fdiv(a, b, m)` (R123). -/
def fdiv (a b m : Nat) : Result Nat :=
  if b = 0 then .error .divideByZero else .ok (a * powMod b (m - 2) m % m)

/-- FADD (R124). -/
def execFadd (ma mb : ModSel) (s : State) : Host.Outcome State Fault Refusal :=
  .next (complete writeRes (do let (a, b, m) ← fprelude ma mb (latched s); .ok (fadd a b m)) s)

/-- FSUB (R125). -/
def execFsub (ma mb : ModSel) (s : State) : Host.Outcome State Fault Refusal :=
  .next (complete writeRes (do let (a, b, m) ← fprelude ma mb (latched s); .ok (fsub a b m)) s)

/-- FMUL (R126). -/
def execFmul (ma mb : ModSel) (s : State) : Host.Outcome State Fault Refusal :=
  .next (complete writeRes (do let (a, b, m) ← fprelude ma mb (latched s); .ok (fmul a b m)) s)

/-- FINV (R127): `OPA` is not read. -/
def execFinv (mb : ModSel) (s : State) : Host.Outcome State Fault Refusal :=
  .next (complete writeRes (do let (b, m) ← finvOperand mb (latched s); finv b m) s)

/-- FDIV (R128). -/
def execFdiv (ma mb : ModSel) (s : State) : Host.Outcome State Fault Refusal :=
  .next (complete writeRes (do let (a, b, m) ← fprelude ma mb (latched s); fdiv a b m) s)

end Sys2Proof.Machine
end

