-- ==== Sys2Proof/Machine/Curve.lean ====
section
/-! DEFINITION. The curve layer: the value-level functions of spec/41_curve.md (R152, R153, R154, R160), their steps
in the spec's order, and the commands ONCURVE, PADD, PDBL, SMUL, PUBKEY (R155 to R159). -/

namespace Sys2Proof.Machine

/-- `on_curve(Pt, (a, b, p))` (R152). -/
def onCurve (c : Curve) : Point → Bool
  | .inf => true
  | .aff x y => fmul y y c.p = fadd (fadd (fmul (fmul x x c.p) x c.p) (fmul c.a x c.p) c.p) c.b c.p

/-- The chord through two affine points: steps 5 and 6 of `padd` (R153). -/
def chord (c : Curve) (x1 y1 x2 y2 : Nat) : Result Point := do
  let s ← fdiv (fsub y2 y1 c.p) (fsub x2 x1 c.p) c.p
  let x3 := fsub (fsub (fmul s s c.p) x1 c.p) x2 c.p
  let y3 := fsub (fmul s (fsub x1 x3 c.p) c.p) y1 c.p
  if onCurve c (.aff x3 y3) then .ok (.aff x3 y3) else .error .internal

/-- Steps 2 to 6 of `padd` (R153), on points that passed step 1. -/
def paddOn (c : Curve) : Point → Point → Result Point
  | .inf, pt => .ok pt
  | .aff x1 y1, .inf => .ok (.aff x1 y1)
  | .aff x1 y1, .aff x2 y2 =>
    if x1 = x2 ∧ fadd y1 y2 c.p = 0 then .ok .inf
    else if x1 = x2 ∧ y1 = y2 then .error .invalidPoint
    else chord c x1 y1 x2 y2

/-- `padd(C, D)` (R153). -/
def padd (c : Curve) (pt1 pt2 : Point) : Result Point :=
  if onCurve c pt1 = false ∨ onCurve c pt2 = false then .error .offCurve else paddOn c pt1 pt2

/-- The tangent at an affine point: step 2 of `pdbl` (R154). -/
def tangent (c : Curve) (x1 y1 : Nat) : Result Point := do
  let two := reduce 2 c.p
  let three := reduce 3 c.p
  let s ← fdiv (fadd (fmul three (fmul x1 x1 c.p) c.p) c.a c.p) (fmul two y1 c.p) c.p
  let x3 := fsub (fmul s s c.p) (fmul two x1 c.p) c.p
  let y3 := fsub (fmul s (fsub x1 x3 c.p) c.p) y1 c.p
  .ok (.aff x3 y3)

/-- `pdbl(C)` (R154): no check of the result. -/
def pdbl (c : Curve) (pt : Point) : Result Point :=
  if onCurve c pt = false then .error .offCurve
  else
    match pt with
    | .inf => .ok .inf
    | .aff x1 y1 => tangent c x1 y1

/-- The recursion of `smul` (R160) to a depth of `fuel`; `smul` gives it as much as it needs. -/
def smulFuel (c : Curve) : Nat → Point → Nat → Result Point
  | 0, _, _ => .error .internal
  | fuel + 1, pt, k =>
    if onCurve c pt = false then .error .offCurve
    else if k = 0 then .ok .inf
    else if k = 1 then .ok pt
    else if k % 2 = 1 then do
      let t ← smulFuel c fuel pt (k - 1)
      padd c pt t
    else do
      let dbl ← pdbl c pt
      smulFuel c fuel dbl (k / 2)

/-- `smul(Pt, k)` (R160). An odd step is followed by a halving, so twice the bit length of `k` bounds the depth
(R284; log entry 12); `smul_step` (Laws/Arith.lean) proves the recursion's own equation, in which no bound is left. -/
def smul (c : Curve) (pt : Point) (k : Nat) : Result Point := smulFuel c (2 * k.log2 + 2) pt k

/-- ONCURVE (R155): a point off the curve is the answer 0, not an error. -/
def execOncurve (s : State) : Host.Outcome State Fault Refusal :=
  .next (complete writeFlag (do
    let c ← ctx (latched s)
    let pt ← point1 (latched s)
    .ok (onCurve c pt)) s)

/-- PADD (R156). -/
def execPadd (s : State) : Host.Outcome State Fault Refusal :=
  .next (complete writePoint (do
    let c ← ctx (latched s)
    let pt1 ← point1 (latched s)
    let pt2 ← point2 (latched s)
    padd c pt1 pt2) s)

/-- PDBL (R157). -/
def execPdbl (s : State) : Host.Outcome State Fault Refusal :=
  .next (complete writePoint (do
    let c ← ctx (latched s)
    let pt ← point1 (latched s)
    pdbl c pt) s)

/-- SMUL (R158): `K` is raw, neither checked nor reduced. -/
def execSmul (s : State) : Host.Outcome State Fault Refusal :=
  .next (complete writePoint (do
    let c ← ctx (latched s)
    let pt ← point1 (latched s)
    smul c pt (latched s).k.toNat) s)

/-- PUBKEY (R159): `D` is raw, not reduced. -/
def execPubkey (s : State) : Host.Outcome State Fault Refusal :=
  .next (complete writePoint (do
    let c ← ctx (latched s)
    let g ← basept (latched s)
    smul c g (latched s).d.toNat) s)

end Sys2Proof.Machine
end

