-- ==== Sys2Proof/Machine/Ecdsa.lean ====
section
/-! DEFINITION. The signature layer (spec/42_ecdsa.md): `sign_core` (R188), `verify_core` (R189) and the commands
KEYGEN, SIGN, VERIFY (R185 to R187). Every exponent-side quantity is taken modulo `n`, never `p` (R180, R181; C1). -/

namespace Sys2Proof.Machine

/-- Steps 4 to 6 of `sign_core` (R188), from `k` and the affine x coordinate of `k*G`. -/
def signFrom (n e d k xR : Nat) : Result (Nat × Nat) :=
  let r := reduce xR n
  if r = 0 then .error .badNonce
  else do
    let s ← fdiv (fadd e (fmul r d n) n) k n
    if s = 0 then .error .badNonce else .ok (r, s)

/-- `sign_core(c, G, n, e_raw, d_raw, k)` (R188). -/
def signCore (ec : EcdsaCtx) (eRaw dRaw k : Nat) : Result (Nat × Nat) := do
  let e := reduce eRaw ec.n
  let d := reduce dRaw ec.n
  let rp ← smul ec.c ec.g k
  match rp with
  | .inf => .error .badNonce
  | .aff xR _ => signFrom ec.n e d k xR

/-- Step 5 of `verify_core` (R189): the comparison modulo `n`; the identity is rejected in step 4. -/
def verifyPoint (n r : Nat) : Point → Bool
  | .inf => false
  | .aff xP _ => reduce xP n = r

/-- `verify_core(c, G, n, e_raw, Q, r, s)` (R189): `u1*G` before `u2*Q` before their sum. -/
def verifyCore (ec : EcdsaCtx) (eRaw : Nat) (q : Point) (r s : Nat) : Result Bool :=
  if q = .inf then .error .invalidPoint
  else do
    let e := reduce eRaw ec.n
    let w ← finv s ec.n
    let u1 := fmul e w ec.n
    let u2 := fmul r w ec.n
    let a1 ← smul ec.c ec.g u1
    let a2 ← smul ec.c q u2
    let pv ← padd ec.c a1 a2
    .ok (verifyPoint ec.n r pv)

/-- `Q = smul(G, d)` beside the `d` it was made from (R185). -/
def keyPair (ec : EcdsaCtx) (d : Nat) : Result (Nat × Point) := do
  let q ← smul ec.c ec.g d
  .ok (d, q)

/-- The operands of VERIFY (R187): all range checks come before `verify_core` (R241). -/
def verifyCommand (x : Regs) : Result Bool := do
  let ec ← ectx x
  let r ← felt x.r.toNat ec.n
  let s ← felt x.s.toNat ec.n
  let q ← point2 x
  verifyCore ec x.e.toNat q r s

/-- KEYGEN (R185). -/
def execKeygen (s : State) : Host.Outcome State Fault Refusal :=
  .next (completeWithDraw writeKeyPair (ectxDraw (latched s)) keyPair s)

/-- SIGN (R186). -/
def execSign (s : State) : Host.Outcome State Fault Refusal :=
  .next (completeWithDraw writeSignature (ectxDraw (latched s))
    (fun ec k => signCore ec (latched s).e.toNat (latched s).d.toNat k) s)

/-- VERIFY (R187). -/
def execVerify (s : State) : Host.Outcome State Fault Refusal :=
  .next (complete writeFlag (verifyCommand (latched s)) s)

end Sys2Proof.Machine
end

