-- ==== Sys2Proof/Machine/Dispatch.lean ====
section
/-! DEFINITION. The meaning of every command: its completion step (spec/10_state.md R42). -/

namespace Sys2Proof.Machine

def exec (i : Instr) (s : State) : Host.Outcome State Fault Refusal :=
  match i with
  -- control (43_control.md)
  | .nop => Sys2Proof.Machine.execNop s
  | .ldk1 => Sys2Proof.Machine.execLdk1 s
  -- field (40_field.md)
  | .fadd ma mb => Sys2Proof.Machine.execFadd ma mb s
  | .fsub ma mb => Sys2Proof.Machine.execFsub ma mb s
  | .fmul ma mb => Sys2Proof.Machine.execFmul ma mb s
  | .finv mb => Sys2Proof.Machine.execFinv mb s
  | .fdiv ma mb => Sys2Proof.Machine.execFdiv ma mb s
  -- curve (41_curve.md)
  | .oncurve => Sys2Proof.Machine.execOncurve s
  | .padd => Sys2Proof.Machine.execPadd s
  | .pdbl => Sys2Proof.Machine.execPdbl s
  | .smul => Sys2Proof.Machine.execSmul s
  | .pubkey => Sys2Proof.Machine.execPubkey s
  -- ECDSA (42_ecdsa.md)
  | .keygen => Sys2Proof.Machine.execKeygen s
  | .sign => Sys2Proof.Machine.execSign s
  | .verify => Sys2Proof.Machine.execVerify s

end Sys2Proof.Machine
end

