-- ==== Sys2Proof/Machine/Sequencer.lean ====
section
/-! DEFINITION. The agents' steps (spec/10_state.md R20): the completion of the command in progress (R42), and one
event of the total order (spec/20_memory.md R72). -/

namespace Sys2Proof.Machine

/-- The completion step of `Busy(w, snap)` (R42): the word is decoded now (R64, R96); an illegal one is the error
`ILLEGAL_CMD` (R97). With no command in progress the sequencer has no step (R20; log entry 4). -/
def completionStep (s : State) : Host.Outcome State Fault Refusal :=
  match s.phase with
  | .idle => .next s
  | .busy w _ =>
    match decode w with
    | .ok i => exec i s
    | .error _ => .next (raiseError .illegalCmd s)

/-- One event (R20): a host access, the completion step, or reset. -/
def takeEvent (ev : Event) (s : State) : Host.Outcome State Fault Refusal :=
  match ev with
  | .read num => portRead num s
  | .write num v => portWrite num v s
  | .complete => completionStep s
  | .reset => .next (resetInput s)

/-- The machine with no event to come: a command in progress is completed, since its step is always enabled and is
eventually taken (R42; log entry 1); an idle core holds its registers (R255; log entry 2); an idle core with
`FATAL = 1` is a failed run (R238, R285; log entry 3). -/
def atRest (s : State) : Host.Outcome State Fault Refusal :=
  match s.phase with
  | .busy _ _ => completionStep s
  | .idle => if statusFatal s.regs.status then .fault .fatalAtRest else .next s

/-- The state with the list of coming events replaced. -/
def withInputs (evs : List Event) (s : State) : State := { s with env := { s.env with inputs := evs } }

/-- The word whose lowest `nbits` bits are those of `w` and whose other bits are 0. -/
def tableWord (nbits w : Nat) : CmdWord := BitVec.ofNat 32 (w % 2 ^ nbits)

/-- A command in progress, its completion the next event: the state just after `issue` of the word (R64) by an idle,
non-fatal core with these registers (log entry 11). -/
def commandNext (w : CmdWord) (s : State) : State :=
  withInputs (.complete :: s.env.inputs) (latchCommand w { s with regs := { s.regs with status := 0 } })

end Sys2Proof.Machine
end

