-- ==== Sys2Proof/Machine/Step.lean ====
section
/-! DEFINITION. One step of the machine: the next event of the total order of spec/20_memory.md R72, and where the
host's check places a command so that the very next step runs it. -/

namespace Sys2Proof.Machine

/-- One step: the next coming event, or, with none to come, what the core does by itself. -/
def step (s : State) : Host.Outcome State Fault Refusal :=
  match s.env.inputs with
  | [] => atRest s
  | ev :: rest => takeEvent ev (withInputs rest s)

/-- `s` with the table's word issued and its completion next, so that the next step decodes and runs it (log entry 11). -/
def State.withFetchWord (s : State) (nbits w : Nat) : State := commandNext (tableWord nbits w) s

end Sys2Proof.Machine
end

