-- ==== Sys2Proof/Machine/HostProgram.lean ====
section
/-! DEFINITION. The notation of host programs (spec/30_encoding.md R100, R101) as lists of events, the digest's byte
order (spec/20_memory.md R67), and the message-level functions of spec/42_ecdsa.md R182. The control flow of a host
program is its own processor's (R100; log entry 17): where a pseudo-instruction writes a value it has read, the value
is an argument here, and so is the number of polls that see `BUSY = 1` (spec/70_reset_and_hazards.md R283 leaves it
open). -/

namespace Sys2Proof.Machine

/-- `WR reg, value` (R100). -/
def hostWR (reg : RegName) (v : Nat) : List Event := [.write (regNumber reg) v]

/-- `RD reg` (R100). -/
def hostRD (reg : RegName) : List Event := [.read (regNumber reg)]

/-- `CMD mnemonic` with its selectors (R100). -/
def hostCMD (i : Instr) : List Event := [.write 0x30 (encode i).toNat]

/-- `WAIT` (R101) that sees `BUSY = 1` in `polls` reads of `STATUS`, then the completion, then the final read. R283 leaves
`polls` open, so it is an argument (log entry 17, DESIGN CHOICE). -/
def hostWAIT (polls : Nat) : List Event := List.replicate polls (.read 0x31) ++ [.complete, .read 0x31]

/-- `RUN mnemonic` (R101), for any number of polls of its `WAIT` (log entry 17). -/
def hostRUN (i : Instr) (polls : Nat) : List Event := hostCMD i ++ hostWAIT polls

/-- `LDP1 x, y` and `LDP1 INF` (R101). -/
def hostLDP1 : Point → List Event
  | .aff x y => hostWR .x1 x ++ hostWR .y1 y ++ hostWR .inf1 0
  | .inf => hostWR .inf1 1

/-- `LDP2 x, y` and `LDP2 INF` (R101). -/
def hostLDP2 : Point → List Event
  | .aff x y => hostWR .x2 x ++ hostWR .y2 y ++ hostWR .inf2 0
  | .inf => hostWR .inf2 1

/-- `MVR1` (R101), for the values `vx, vy, vi` its three reads return. -/
def hostMVR1 (vx vy vi : Nat) : List Event :=
  hostRD .rx ++ hostRD .ry ++ hostRD .rinf ++ hostWR .x1 vx ++ hostWR .y1 vy ++ hostWR .inf1 vi

/-- `MVR2` (R101), for the values `vx, vy, vi` its three reads return. -/
def hostMVR2 (vx vy vi : Nat) : List Event :=
  hostRD .rx ++ hostRD .ry ++ hostRD .rinf ++ hostWR .x2 vx ++ hostWR .y2 vy ++ hostWR .inf2 vi

/-- `LDCURVE p, a, b, gx, gy, n` (R101). -/
def hostLDCURVE (p a b gx gy n : Nat) : List Event :=
  hostWR .p p ++ hostWR .a a ++ hostWR .b b ++ hostWR .gx gx ++ hostWR .gy gy ++ hostWR .n n

/-- The digest as a number (R67): `e = sum over i of h[i] * 256^(31-i)`, `h[0]` most significant. -/
def digestNumber (h : Vector Byte 32) : Nat := h.toList.foldl (fun acc byte => 256 * acc + byte.toNat) 0

/-- `sign(curve, m, d)` (R182): `E <- be(SHA256(m))`, `D <- d`, run SIGN. How many polls see `BUSY = 1` is open (R283): it
is the argument `polls` (log entry 17). -/
def hostSign (m : List Byte) (d polls : Nat) : List Event :=
  hostWR .e (digestNumber (Config.sha256 m)) ++ hostWR .d d ++ hostRUN .sign polls

/-- `verify(curve, m, Q, (r, s))` (R182): `E <- be(SHA256(m))`, point operand 2 `<- Q`, `R <- r`, `S <- s`, run VERIFY.
How many polls see `BUSY = 1` is open (R283): it is the argument `polls` (log entry 17). -/
def hostVerify (m : List Byte) (q : Point) (r s polls : Nat) : List Event :=
  hostWR .e (digestNumber (Config.sha256 m)) ++ hostLDP2 q ++ hostWR .r r ++ hostWR .s s ++ hostRUN .verify polls

end Sys2Proof.Machine
end

