-- ==== Sys2Proof/Safety.lean ====
section
/-! DEFINITION. What claims are stated in terms of: the invariant of the reachable states, the end of a run, and what
a run must not meet (spec/10_state.md R30, R40, R41; spec/60_exceptions.md R238; spec/70_reset_and_hazards.md R285). -/

namespace Sys2Proof.Machine

/-- The registers but for `STATUS`, which alone differs between a snapshot and the registers of its busy phase (R41). -/
def apartFromStatus (x : Regs) : Regs := { x with status := 0 }

/-- What R30 says of `STATUS`: `BUSY` and `DONE` are never both 1; `ERRCODE` is at most 9; the reserved bits are 0; and
while `FATAL = 1`, `ERRCODE` stays 7, `DONE` stays 1 and no command is in progress (R238). -/
def statusOk (st : CmdWord) : Bool :=
  !(statusBusy st && statusDone st) && decide ((statusErr st).toNat ≤ 9) && statusReservedZero st &&
    (!statusFatal st || (statusErr st == 7 && statusDone st && !statusBusy st))

/-- `BUSY = 1` exactly when the phase is `Busy` (R40); then the word in progress is the one in `CMD` (R64), the snapshot
equals the live registers (R41), and `ERRCODE` is 0, cleared by the issue (R30). -/
def phaseOk (s : State) : Bool :=
  match s.phase with
  | .idle => !statusBusy s.regs.status
  | .busy w snap =>
    statusBusy s.regs.status && s.regs.cmd == w && decide (apartFromStatus snap = apartFromStatus s.regs) &&
      statusErr s.regs.status == 0

/-- The result point written as `Inf` has zero coordinates (R26). -/
def resultPointOk (x : Regs) : Bool := x.rinf != 1 || (x.rx == 0 && x.ry == 0)

/-- The invariant of the machine. -/
abbrev Inv (s : State) : Prop :=
  statusOk s.regs.status = true ∧ phaseOk s = true ∧ resultPointOk s.regs = true

/-- A run of a host program is over when the host has made its last access and the phase is `Idle` (R285), with
`FATAL = 0` (log entry 3). DESIGN CHOICE (log entry 18): R285 names the host's accesses only and leaves open whether a run
is over while a reset or a `complete` event that finds no command in progress is still to come; here it is not, no event of
any kind may be left. -/
def runOver (s : State) : Bool := s.env.inputs.isEmpty && decide (s.phase = .idle) && !statusFatal s.regs.status

/-- A state from which no step stops but by `FATAL` at the end of the run: every coming host access exists on the port. -/
def inputsOk (s : State) : Bool := s.env.inputs.all Event.wf

end Sys2Proof.Machine
end

