-- ==== Sys2Proof/Certificates/Slice0/Obligations.lean ====
section
/-! DEFINITION. The statements for the provers. Each formalises numbered rules of spec/, named in its docstring; where
one rests on a choice of the model, the docstring names the log entry. The `Spec` vocabulary below writes the spec's
own terms (moduli, operands, points, errors) apart from the meanings, over the register contents alone. -/

namespace Sys2Proof.Spec

open Sys2Proof.Machine

/-- The outcome of a completion step (Machine/State.lean's instances of the host's three outcomes). -/
abbrev Ending := Host.Outcome State Fault Refusal

/-- A successful completion of a command started in `s` (R42): the registers `x` with `STATUS` updated, the phase
`Idle`, nothing else. What the update of `STATUS` is, `StatusUpdatesAreBitwise` says. -/
def succeeded (s : State) (x : Regs) : Ending :=
  .next { s with regs := { x with status := successStatus s.regs.status }, phase := .idle }

/-- An error completion (R236): `STATUS` and the phase, nothing else. -/
def failed (s : State) (kind : ErrorKind) : Ending :=
  .next { s with regs := { s.regs with status := errorStatus kind s.regs.status }, phase := .idle }

/-- `mod(sel)` (R94). -/
def modOf (x : Regs) : ModSel → Nat
  | .p => x.p.toNat
  | .n => x.n.toNat

/-- The curve the context registers hold (R150). -/
abbrev curveOf (x : Regs) : Curve := ⟨x.a.toNat, x.b.toNat, x.p.toNat⟩

/-- The range checks of the curve (R150, R240). -/
abbrev CurveIn (x : Regs) : Prop := x.a.toNat < x.p.toNat ∧ x.b.toNat < x.p.toNat

/-- The range checks of the base point (R164, R240). -/
abbrev BaseIn (x : Regs) : Prop := x.gx.toNat < x.p.toNat ∧ x.gy.toNat < x.p.toNat

/-- The base point (R164). -/
abbrev baseOf (x : Regs) : Point := .aff x.gx.toNat x.gy.toNat

/-- The point a triple of registers holds (R26). -/
def pointHeld (px py : Word) (tag : Bit) : Point := if tag = 1 then .inf else .aff px.toNat py.toNat

/-- The range check of a point operand: none under a tag of 1 (R151, R240). -/
abbrev PointIn (p : Nat) (px py : Word) (tag : Bit) : Prop := tag = 1 ∨ (px.toNat < p ∧ py.toNat < p)

/-- Point operands 1 and 2 and their range checks. -/
abbrev held1 (x : Regs) : Point := pointHeld x.x1 x.y1 x.inf1
abbrev held2 (x : Regs) : Point := pointHeld x.x2 x.y2 x.inf2
abbrev In1 (x : Regs) : Prop := PointIn x.p.toNat x.x1 x.y1 x.inf1
abbrev In2 (x : Regs) : Prop := PointIn x.p.toNat x.x2 x.y2 x.inf2

/-- The curve equation `y^2 = x^3 + a*x + b (mod p)`, true of the identity (R152). -/
def OnCurve (c : Curve) : Point → Prop
  | .inf => True
  | .aff x y => y ^ 2 % c.p = (x ^ 3 + c.a * x + c.b) % c.p

/-- A command started in `s` ends with the result point `pt` and nothing else changed but `STATUS` and the phase; the
registers hold it as R26 says. -/
def EndsWithPoint (s : State) (o : Ending) (pt : Point) : Prop :=
  match pt with
  | .inf => o = succeeded s { s.regs with rinf := 1, rx := 0, ry := 0 }
  | .aff px py => ∃ vx vy : Word, vx.toNat = px ∧ vy.toNat = py ∧
      o = succeeded s { s.regs with rinf := 0, rx := vx, ry := vy }

/-- A command whose result is a point ends as its value-level function does: with that point, or with that error. -/
def EndsAs (s : State) (o : Ending) : Result Point → Prop
  | .ok pt => EndsWithPoint s o pt
  | .error kind => o = failed s kind

/-- The recursion of `smul` (R160), as a relation: `SmulEnds c Pt k r` says that it ends with `r`. -/
inductive SmulEnds (c : Curve) : Point → Nat → Result Point → Prop
  | offCurve {pt k} : ¬ OnCurve c pt → SmulEnds c pt k (.error .offCurve)
  | zero {pt} : OnCurve c pt → SmulEnds c pt 0 (.ok .inf)
  | one {pt} : OnCurve c pt → SmulEnds c pt 1 (.ok pt)
  | oddError {pt k kind} : OnCurve c pt → k ≠ 1 → k % 2 = 1 → SmulEnds c pt (k - 1) (.error kind) →
      SmulEnds c pt k (.error kind)
  | odd {pt k t} : OnCurve c pt → k ≠ 1 → k % 2 = 1 → SmulEnds c pt (k - 1) (.ok t) →
      SmulEnds c pt k (padd c pt t)
  | evenError {pt k kind} : OnCurve c pt → k ≠ 0 → k % 2 = 0 → pdbl c pt = .error kind →
      SmulEnds c pt k (.error kind)
  | even {pt k d r} : OnCurve c pt → k ≠ 0 → k % 2 = 0 → pdbl c pt = .ok d → SmulEnds c d (k / 2) r →
      SmulEnds c pt k r

/-- The checks of KEYGEN and SIGN (R183, R240). -/
abbrev DrawIn (x : Regs) : Prop := CurveIn x ∧ BaseIn x ∧ 2 ≤ x.n.toNat

/-- The checks of VERIFY (R187, R240). -/
abbrev VerifyIn (x : Regs) : Prop :=
  CurveIn x ∧ BaseIn x ∧ x.r.toNat < x.n.toNat ∧ x.s.toNat < x.n.toNat ∧ In2 x

/-- Exactly the registers each command uses as field elements are in range (R240). -/
def RangeOk (x : Regs) : Instr → Prop
  | .nop | .ldk1 => True
  | .fadd ma mb | .fsub ma mb | .fmul ma mb | .fdiv ma mb => x.opa.toNat < modOf x ma ∧ x.opb.toNat < modOf x mb
  | .finv mb => x.opb.toNat < modOf x mb
  | .oncurve | .pdbl | .smul => CurveIn x ∧ In1 x
  | .padd => CurveIn x ∧ In1 x ∧ In2 x
  | .pubkey => CurveIn x ∧ BaseIn x
  | .keygen | .sign => DrawIn x
  | .verify => VerifyIn x

/-- The state with another list of answers to come from the random port. -/
def withRng (l : List RngAnswer) (s : State) : State := { s with env := { s.env with rng := l } }

/-- The state after one rejection loop was left to the free value (log entry 7). -/
def afterFreeDraw (s : State) : State := { s with env := { s.env with draws := s.env.draws + 1 } }

/-- The registers a command reads (R32). -/
def readsOf : Instr → List RegName
  | .nop | .ldk1 => []
  | .fadd ma mb | .fsub ma mb | .fmul ma mb | .fdiv ma mb =>
    [.opa, .opb] ++ [if ma = .p then .p else .n] ++ [if mb = .p then .p else .n]
  | .finv mb => [.opb, if mb = .p then .p else .n]
  | .oncurve | .pdbl => [.p, .a, .b, .x1, .y1, .inf1]
  | .padd => [.p, .a, .b, .x1, .y1, .inf1, .x2, .y2, .inf2]
  | .smul => [.p, .a, .b, .x1, .y1, .inf1, .k]
  | .pubkey => [.p, .a, .b, .gx, .gy, .d]
  | .keygen => [.p, .a, .b, .gx, .gy, .n]
  | .sign => [.p, .a, .b, .gx, .gy, .n, .d, .e]
  | .verify => [.p, .a, .b, .gx, .gy, .n, .e, .r, .s, .x2, .y2, .inf2]

/-- The registers a command writes at a successful completion, `STATUS` apart (R32). -/
def writesOf : Instr → List RegName
  | .nop => []
  | .ldk1 => [.p, .a, .b, .gx, .gy, .n]
  | .fadd _ _ | .fsub _ _ | .fmul _ _ | .fdiv _ _ | .finv _ => [.res]
  | .oncurve | .verify => [.flag]
  | .padd | .pdbl | .smul | .pubkey => [.rx, .ry, .rinf]
  | .keygen => [.d, .rx, .ry, .rinf]
  | .sign => [.r, .s]

/-- The error kinds R232 lists for a command, with any modulus (`x` and `c` in its table). -/
def kindsOf : Instr → List ErrorKind
  | .nop | .ldk1 => []
  | .fadd _ _ | .fsub _ _ | .fmul _ _ => [.fieldMismatch, .operandRange]
  | .finv _ => [.divideByZero, .operandRange]
  | .fdiv _ _ => [.fieldMismatch, .divideByZero, .operandRange]
  | .oncurve => [.operandRange]
  | .padd => [.divideByZero, .offCurve, .invalidPoint, .internal, .operandRange]
  | .pdbl => [.divideByZero, .offCurve, .operandRange]
  | .smul | .pubkey => [.divideByZero, .offCurve, .invalidPoint, .internal, .operandRange]
  | .keygen => [.divideByZero, .offCurve, .invalidPoint, .rngFailure, .internal, .operandRange]
  | .sign => [.divideByZero, .offCurve, .invalidPoint, .badNonce, .rngFailure, .internal, .operandRange]
  | .verify => [.divideByZero, .offCurve, .invalidPoint, .internal, .operandRange]

/-- The 28 legal words and what they decode to (R95, R96). -/
def legalWords : List (CmdWord × Instr) :=
  [(0x00000000, .nop), (0x00000001, .ldk1),
   (0x00000010, .fadd .p .p), (0x00000110, .fadd .n .p), (0x00000210, .fadd .p .n), (0x00000310, .fadd .n .n),
   (0x00000011, .fsub .p .p), (0x00000111, .fsub .n .p), (0x00000211, .fsub .p .n), (0x00000311, .fsub .n .n)] ++
  [(0x00000012, .fmul .p .p), (0x00000112, .fmul .n .p), (0x00000212, .fmul .p .n), (0x00000312, .fmul .n .n),
   (0x00000013, .finv .p), (0x00000213, .finv .n),
   (0x00000014, .fdiv .p .p), (0x00000114, .fdiv .n .p), (0x00000214, .fdiv .p .n), (0x00000314, .fdiv .n .n)] ++
  [(0x00000020, .oncurve), (0x00000021, .padd), (0x00000022, .pdbl), (0x00000023, .smul), (0x00000024, .pubkey),
   (0x00000030, .keygen), (0x00000031, .sign), (0x00000032, .verify)]

/-- The map of R22: number, name, width, and whether a host write can change the register (`CMD` apart, R65). -/
def registerTable : List (Nat × RegName × Nat × Bool) :=
  [(0x00, .p, 256, true), (0x01, .a, 256, true), (0x02, .b, 256, true), (0x03, .gx, 256, true),
   (0x04, .gy, 256, true), (0x05, .n, 256, true), (0x10, .opa, 256, true), (0x11, .opb, 256, true),
   (0x12, .x1, 256, true), (0x13, .y1, 256, true), (0x14, .inf1, 1, true), (0x15, .x2, 256, true),
   (0x16, .y2, 256, true)] ++
  [(0x17, .inf2, 1, true), (0x18, .k, 256, true), (0x19, .d, 256, true), (0x1A, .e, 256, true),
   (0x1B, .r, 256, true), (0x1C, .s, 256, true), (0x20, .res, 256, false), (0x21, .rx, 256, false),
   (0x22, .ry, 256, false), (0x23, .rinf, 1, false), (0x24, .flag, 1, false), (0x30, .cmd, 32, true),
   (0x31, .status, 32, false)]

/-- What FADD, FSUB and FMUL share (R122, R124 to R126): the result of `f` in the field of both operands, an operand
out of range, unequal moduli, in the order of R241. -/
def FieldCommandRule (i : ModSel → ModSel → Instr) (f : Nat → Nat → Nat → Nat) : Prop :=
  ∀ (ma mb : ModSel) (s : State),
    let x := latched s
    let a := x.opa.toNat
    let b := x.opb.toNat
    (a < modOf x ma → b < modOf x mb → modOf x ma = modOf x mb →
      ∃ v : Word, v.toNat = f a b (modOf x ma) ∧ exec (i ma mb) s = succeeded s { s.regs with res := v }) ∧
    (¬ (a < modOf x ma ∧ b < modOf x mb) → exec (i ma mb) s = failed s .operandRange) ∧
    (a < modOf x ma → b < modOf x mb → modOf x ma ≠ modOf x mb → exec (i ma mb) s = failed s .fieldMismatch)

/-- What SMUL and PUBKEY share (R158, R159, R160): an operand out of range; otherwise the recursion on the point and
scalar ends in exactly one way, and the command ends as it does. -/
def ScalarCommandRule (i : Instr) (In : Regs → Prop) (pt : Regs → Point) (k : Regs → Nat) : Prop :=
  ∀ s : State,
    let x := latched s
    (¬ (CurveIn x ∧ In x) → exec i s = failed s .operandRange) ∧
    (CurveIn x → In x →
      ∃ r, SmulEnds (curveOf x) (pt x) (k x) r ∧ (∀ r', SmulEnds (curveOf x) (pt x) (k x) r' → r' = r) ∧
        EndsAs s (exec i s) r)

/-- The base point is `G` and a listed draw answers `d`: KEYGEN's end by the recursion's (R185). -/
def KeygenEnds (s : State) (d : Nat) (o : Ending) : Result Point → Prop
  | .ok .inf => ∃ vd : Word, vd.toNat = d ∧ o = succeeded s { s.regs with d := vd, rinf := 1, rx := 0, ry := 0 }
  | .ok (.aff px py) => ∃ vd vx vy : Word, vd.toNat = d ∧ vx.toNat = px ∧ vy.toNat = py ∧
      o = succeeded s { s.regs with d := vd, rinf := 0, rx := vx, ry := vy }
  | .error kind => o = failed s kind

/-- The short Weierstrass curve over the integers mod `p` that a curve triple stands for (R15, R150). -/
def weierstrass (c : Curve) : WeierstrassCurve.Affine (ZMod c.p) :=
  { a₁ := 0, a₂ := 0, a₃ := 0, a₄ := (c.a : ZMod c.p), a₆ := (c.b : ZMod c.p) }

/-- A point value stands for a point of the curve's group. -/
inductive Denotes (c : Curve) : Point → (weierstrass c).Point → Prop
  | inf : Denotes c .inf .zero
  | aff {x y : Nat} (hx : x < c.p) (hy : y < c.p)
      (h : (weierstrass c).Nonsingular (x : ZMod c.p) (y : ZMod c.p)) :
      Denotes c (.aff x y) (.some (x : ZMod c.p) (y : ZMod c.p) h)

/-- A point value with reduced coordinates. -/
def Reduced (p : Nat) : Point → Prop
  | .inf => True
  | .aff x y => x < p ∧ y < p

end Sys2Proof.Spec

open Sys2Proof Sys2Proof.Machine Sys2Proof.Spec

/-! ## Encoding -/

/-- A few words of each format decode as R95 lists them, and four illegal ones are refused (R97's examples V-X1 to V-X4). -/
def Obligations.ListedWordsDecode : Prop :=
  decode 0x00000001 = .ok .ldk1 ∧ decode 0x00000312 = .ok (.fmul .n .n) ∧ decode 0x00000110 = .ok (.fadd .n .p) ∧
  decode 0x00000213 = .ok (.finv .n) ∧ decode 0x00000021 = .ok .padd ∧ decode 0x00000031 = .ok .sign ∧
  decode 0x00000015 = .error .reservedOpcode ∧ decode 0x00000412 = .error .reservedBits ∧
  decode 0x00000113 = .error .reservedBits ∧ decode 0x00000120 = .error .reservedBits

/-- R96: the legal words are exactly the 28 of R95, each with its command and selectors; every other word is illegal. -/
def Obligations.DecodeAcceptsExactlyTheLegalWords : Prop :=
  legalWords.length = 28 ∧ legalWords.Nodup ∧ ∀ (w : CmdWord) (i : Instr), decode w = .ok i ↔ (w, i) ∈ legalWords

/-- Decoding the word of any well-formed command gives it back, selectors included. -/
def Obligations.DecodeOfEncodeIsIdentity : Prop :=
  ∀ i : Instr, i.wf = true → decode (encode i) = .ok i

/-- A word that decodes is the word of the command it decodes to: no two words mean the same command. -/
def Obligations.EncodeOfDecodeIsIdentity : Prop :=
  ∀ (w : CmdWord) (i : Instr), decode w = .ok i → encode i = w

/-! ## Steps, reset, status -/

/-- R42, R64: the completion step of a busy core runs the command its latched word decodes to, whether the completion
is the next event or, with none to come, is taken because the command is owed it (log entry 1). `withFetchWord` makes
it so for the very next step (log entry 11): the registers are those of `s` with the word in `CMD` and `STATUS = 1`. -/
def Obligations.StepRunsTheLatchedCommand : Prop :=
  (∀ (s : State) (w : CmdWord) (snap : Regs) (i : Instr), s.phase = .busy w snap → decode w = .ok i →
    (s.env.inputs = [] → step s = exec i s) ∧
    (∀ rest, s.env.inputs = .complete :: rest → step s = exec i (withInputs rest s))) ∧
  (∀ (s : State) (w : CmdWord) (i : Instr), decode w = .ok i →
    step (s.withFetchWord 32 w.toNat) = exec i
      { s with
        regs := { s.regs with cmd := w, status := 1 }
        phase := .busy w { s.regs with cmd := w, status := 0 } })

/-- From R97: an illegal word is issued like any other, and its completion writes `ERRCODE = 8`, `DONE = 1`, `BUSY = 0`
and no other register, makes no draw and does not set `FATAL`: first for the two steps after a host writes it, then for
every core that is busy with one, whether the completion is the next event or, with none to come, is taken because it is
owed. That last clause is the model's choice (log entry 1, DESIGN CHOICE). -/
def Obligations.IllegalWordEndsWithIllegalCmd : Prop :=
  ∀ (s : State) (w : CmdWord) (e : DecodeError), decode w = .error e →
    (∀ rest, statusBusy s.regs.status = false → statusFatal s.regs.status = false →
      s.env.inputs = .write 0x30 w.toNat :: .complete :: rest →
      ∃ s1 t, step s = .next s1 ∧ s1.regs.cmd = w ∧ statusBusy s1.regs.status = true ∧
        step s1 = .next t ∧ t.regs = { s1.regs with status := t.regs.status } ∧ t.phase = .idle ∧
        statusErr t.regs.status = 8 ∧ statusDone t.regs.status = true ∧ statusBusy t.regs.status = false ∧
        statusFatal t.regs.status = false ∧ t.env = { s.env with inputs := rest }) ∧
    (∀ snap, s.phase = .busy w snap →
      (s.env.inputs = [] → step s = failed s .illegalCmd) ∧
      (∀ rest, s.env.inputs = .complete :: rest → step s = failed (withInputs rest s) .illegalCmd))

/-- R33: every register and the phase right after reset. -/
def Obligations.ResetGivesTheResetValues : Prop :=
  let x := State.reset.regs
  x.p.toNat = 0xFFFFFFFFFFFFFFFFFFFFFFFFFFFFFFFFFFFFFFFFFFFFFFFFFFFFFFFEFFFFFC2F ∧ x.a = 0 ∧ x.b = 7 ∧
  x.gx.toNat = 0x79BE667EF9DCBBAC55A06295CE870B07029BFCDB2DCE28D959F2815B16F81798 ∧
  x.gy.toNat = 0x483ADA7726A3C4655DA4FBFC0E1108A8FD17B448A68554199C47D08FFB10D4B8 ∧
  x.n.toNat = 0xFFFFFFFFFFFFFFFFFFFFFFFFFFFFFFFEBAAEDCE6AF48A03BBFD25E8CD0364141 ∧
  (∀ reg : RegName, reg ∉ [RegName.p, .a, .b, .gx, .gy, .n] → readReg x reg = 0) ∧ State.reset.phase = .idle

/-- R270, R271: reset in any phase gives the reset registers and `Idle`, whatever was in progress; and no other event
clears `FATAL`. -/
def Obligations.ResetActsInAnyPhaseAndAloneClearsFatal : Prop :=
  (∀ (s : State) (rest : List Event), s.env.inputs = .reset :: rest →
    ∃ t, step s = .next t ∧ t.regs = State.reset.regs ∧ t.phase = State.reset.phase ∧ t.env.inputs = rest) ∧
  (∀ s t : State, step s = .next t → statusFatal s.regs.status = true → statusFatal t.regs.status = false →
    s.env.inputs.head? = some .reset)

/-- R30, R231, R236: what issue, success and error do to `STATUS`, bit by bit, and the error codes. -/
def Obligations.StatusUpdatesAreBitwise : Prop :=
  (∀ st : CmdWord, statusBusy st = st.getLsbD 0 ∧ statusDone st = st.getLsbD 1 ∧ statusFatal st = st.getLsbD 2 ∧
    (∀ i, i < 4 → (statusErr st).getLsbD i = st.getLsbD (4 + i))) ∧
  (∀ (st : CmdWord) (j : Nat), (issueStatus st).getLsbD j =
    if j = 0 then true else if j = 1 ∨ (4 ≤ j ∧ j < 8) then false else st.getLsbD j) ∧
  (∀ (st : CmdWord) (j : Nat), (successStatus st).getLsbD j =
    if j = 1 then true else if j = 0 ∨ (4 ≤ j ∧ j < 8) then false else st.getLsbD j) ∧
  (∀ (kind : ErrorKind) (st : CmdWord) (j : Nat), (errorStatus kind st).getLsbD j =
    if j = 1 then true else if j = 0 then false
    else if 4 ≤ j ∧ j < 8 then (errorCode kind).getLsbD (j - 4)
    else if j = 2 ∧ kind = .internal then true else st.getLsbD j) ∧
  errorCode .fieldMismatch = 1 ∧ errorCode .divideByZero = 2 ∧ errorCode .offCurve = 3 ∧ errorCode .invalidPoint = 4 ∧
  errorCode .badNonce = 5 ∧ errorCode .rngFailure = 6 ∧ errorCode .internal = 7 ∧ errorCode .illegalCmd = 8 ∧
  errorCode .operandRange = 9

/-- The invariant holds right after reset. -/
def Obligations.ResetMeetsTheInvariant : Prop := Inv State.reset

/-- R30, R40, R41, R26, R238: from every state that meets the invariant, every step gives one that meets it: `BUSY`
exactly in the busy phase, the snapshot equal to the live registers, `BUSY` and `DONE` never both 1, `ERRCODE` at most
9, reserved bits 0, a fatal core idle with `ERRCODE = 7` and `DONE = 1`, and a result `Inf` with zero coordinates. -/
def Obligations.EveryStepKeepsTheInvariant : Prop :=
  ∀ s t : State, Inv s → step s = .next t → Inv t

/-- R238: while `FATAL = 1` no step but reset starts a command or touches `STATUS`, `CMD` or the phase; and `FATAL` is
set by a completion with `INTERNAL` only. -/
def Obligations.FatalIsStickyAndOnlyInternalSetsIt : Prop :=
  (∀ s t : State, Inv s → statusFatal s.regs.status = true → step s = .next t → s.env.inputs.head? ≠ some .reset →
    t.regs.status = s.regs.status ∧ t.regs.cmd = s.regs.cmd ∧ t.phase = .idle ∧
    statusErr t.regs.status = 7 ∧ statusDone t.regs.status = true) ∧
  (∀ s t : State, step s = .next t → statusFatal s.regs.status = false → statusFatal t.regs.status = true →
    (∃ w snap, s.phase = .busy w snap) ∧ statusErr t.regs.status = 7 ∧ t.phase = .idle)

/-- R45, R245: `done` equals `STATUS.DONE`, becomes 1 at every completion, and returns to 0 only at an issue or reset. -/
def Obligations.DoneRisesAtCompletionAndFallsAtIssueOrReset : Prop :=
  (∀ s : State, doneOutput s = s.regs.status.getLsbD 1) ∧
  (∀ (s t : State) (w : CmdWord) (snap : Regs) (rest : List Event), s.phase = .busy w snap →
    s.env.inputs = .complete :: rest → step s = .next t → doneOutput t = true) ∧
  (∀ s t : State, step s = .next t → doneOutput s = true → doneOutput t = false →
    (∃ v, s.env.inputs.head? = some (.write 0x30 v)) ∨ s.env.inputs.head? = some .reset)

/-- R42 with log entry 1: a command in progress is completed, by reset or by its completion step, in at most one step
more than there are events to come, if every host access among them exists on the port. -/
def Obligations.BusyCommandCompletesWithinItsInputs : Prop :=
  ∀ s : State, s.phase ≠ .idle → inputsOk s = true →
    ∃ k t, k ≤ s.env.inputs.length + 1 ∧ Sys2Proof.core.run k s = .next t ∧ t.phase = .idle

/-- R230, R285 with log entries 3 and 5: with only host accesses that exist on the port to come, no step stops but the
one of an idle core whose run is over with `FATAL = 1`, and none is refused. -/
def Obligations.WellFormedRunsStopOnlyWhenFatalAtRest : Prop :=
  ∀ s : State, inputsOk s = true →
    (∃ t, step s = .next t ∧ inputsOk t = true) ∨
    (step s = .fault .fatalAtRest ∧ s.env.inputs = [] ∧ s.phase = .idle ∧ statusFatal s.regs.status = true)

/-! ## The host port -/

/-- R22, R66: the register at every number of the port, its width and the host's right to write it. -/
def Obligations.RegisterMapIsTheTable : Prop :=
  (∀ num reg width writable, (num, reg, width, writable) ∈ registerTable →
    regAt num = some reg ∧ regWidth reg = width ∧ regWritable reg = writable) ∧
  (∀ num, (∀ entry ∈ registerTable, entry.1 ≠ num) → regAt num = none)

/-- R62: a read answers as the rule says and changes no register, no phase, no coming event and no answer to come of the
random port. A busy read of a register other than `STATUS` answers some value of the register's width: the statement
holds for whatever the free value is (log entry 8). -/
def Obligations.HostReadAnswersAndChangesNothing : Prop :=
  ∀ (s : State) (num : Nat) (rest : List Event), num ≤ 0x3F → s.env.inputs = .read num :: rest →
    ∃ t v, step s = .next t ∧ t.regs = s.regs ∧ t.phase = s.phase ∧ t.env.inputs = rest ∧ t.env.rng = s.env.rng ∧
      t.env.draws = s.env.draws ∧ t.env.reads = v :: s.env.reads ∧
      (regAt num = none → v = 0) ∧
      (num = 0x31 → v = s.regs.status.toNat) ∧
      (∀ reg, regAt num = some reg → v < 2 ^ regWidth reg) ∧
      (∀ reg, regAt num = some reg → statusBusy s.regs.status = false → v = readReg s.regs reg)

/-- R63, with R65 and R66: a write to an unmapped number, during a command, or to a read-only register has no effect at
all; a write to `CMD` issues the word (R64), or has no effect with `FATAL = 1`; a write to any other register makes it
hold the value and changes nothing else, `STATUS` included. -/
def Obligations.HostWriteSetsOneRegisterOrNothing : Prop :=
  ∀ (s : State) (num v : Nat) (rest : List Event), num ≤ 0x3F → s.env.inputs = .write num v :: rest →
    (regAt num = none → step s = .next (withInputs rest s)) ∧
    (∀ reg, regAt num = some reg → v < 2 ^ regWidth reg → statusBusy s.regs.status = true →
      step s = .next (withInputs rest s)) ∧
    (∀ reg, regAt num = some reg → v < 2 ^ regWidth reg →
      reg ∈ [RegName.res, .rx, .ry, .rinf, .flag, .status] → step s = .next (withInputs rest s)) ∧
    (num = 0x30 → v < 2 ^ 32 → statusBusy s.regs.status = false →
      step s = .next (if statusFatal s.regs.status = true then withInputs rest s
        else withInputs rest
          { s with
            regs := { s.regs with cmd := BitVec.ofNat 32 v, status := issueStatus s.regs.status }
            phase := .busy (BitVec.ofNat 32 v) { s.regs with cmd := BitVec.ofNat 32 v } })) ∧
    (∀ reg, regAt num = some reg → v < 2 ^ regWidth reg → statusBusy s.regs.status = false →
      reg ∉ [RegName.res, .rx, .ry, .rinf, .flag, .status, .cmd] →
      ∃ x : Regs, step s = .next (withInputs rest { s with regs := x }) ∧ readReg x reg = v ∧
        ∀ other, other ≠ reg → readReg x other = readReg s.regs other)

/-- R64: a write to `CMD` while not busy has no effect with `FATAL = 1`; otherwise it stores the word, latches all
registers, and sets `DONE = 0, ERRCODE = 0, BUSY = 1`, whatever the word. -/
def Obligations.CommandWriteIssues : Prop :=
  ∀ (s : State) (w : CmdWord) (rest : List Event), s.env.inputs = .write 0x30 w.toNat :: rest →
    statusBusy s.regs.status = false →
    (statusFatal s.regs.status = true → step s = .next (withInputs rest s)) ∧
    (statusFatal s.regs.status = false →
      step s = .next (withInputs rest
        { s with
          regs := { s.regs with cmd := w, status := issueStatus s.regs.status }
          phase := .busy w { s.regs with cmd := w } }))

/-- Log entry 5 (DEDUCED from R63, R66): a number above 0x3F does not exist on the port and a value that does not fit
its register cannot be carried by it; such an access is no event of the hardware, and the model stops there. -/
def Obligations.AccessesThatDoNotExistStop : Prop :=
  ∀ (s : State) (num v : Nat) (rest : List Event),
    (0x3F < num → s.env.inputs = .read num :: rest → step s = .fault (.numberOffPort num)) ∧
    (0x3F < num → s.env.inputs = .write num v :: rest → step s = .fault (.numberOffPort num)) ∧
    (∀ reg, regAt num = some reg → 2 ^ regWidth reg ≤ v → s.env.inputs = .write num v :: rest →
      step s = .fault (.valueTooWide num v))

/-- R67: the digest's 32 bytes are read big-endian, `h[0]` most significant. -/
def Obligations.DigestIsBigEndian : Prop :=
  ∀ h : Vector Byte 32, digestNumber h = ∑ i : Fin 32, (h[i]).toNat * 256 ^ (31 - i.val)

/-! ## Control commands -/

/-- R211: NOP completes with success and changes no other register. -/
def Obligations.NopOnlyCompletes : Prop := ∀ s : State, exec .nop s = succeeded s s.regs

/-- R212, R214: LDK1 writes the six preset constants to the context and nothing else. -/
def Obligations.LdkLoadsThePreset : Prop :=
  ∀ s : State, ∃ vp vgx vgy vn : Word,
    vp.toNat = 2 ^ 256 - 2 ^ 32 - 977 ∧
    vgx.toNat = 0x79BE667EF9DCBBAC55A06295CE870B07029BFCDB2DCE28D959F2815B16F81798 ∧
    vgy.toNat = 0x483ADA7726A3C4655DA4FBFC0E1108A8FD17B448A68554199C47D08FFB10D4B8 ∧
    vn.toNat = 0xFFFFFFFFFFFFFFFFFFFFFFFFFFFFFFFEBAAEDCE6AF48A03BBFD25E8CD0364141 ∧
    exec .ldk1 s = succeeded s { s.regs with p := vp, a := 0, b := 7, gx := vgx, gy := vgy, n := vn }

/-! ## Field commands -/

/-- R124: FADD. -/
def Obligations.FaddAddsModulo : Prop := FieldCommandRule .fadd fun a b m => (a + b) % m

/-- R125: FSUB. -/
def Obligations.FsubSubtractsModulo : Prop := FieldCommandRule .fsub fun a b m => (a + m - b) % m

/-- R126: FMUL, the exact product reduced, for every modulus. -/
def Obligations.FmulMultipliesModulo : Prop := FieldCommandRule .fmul fun a b m => a * b % m

/-- R127: FINV is the exact power `b^(m-2)` reduced; it fails on 0 and on an operand out of range; `OPA` is not read. -/
def Obligations.FinvIsTheFermatPower : Prop :=
  ∀ (mb : ModSel) (s : State),
    let x := latched s
    let b := x.opb.toNat
    let m := modOf x mb
    (b < m → b ≠ 0 → ∃ v : Word, v.toNat = b ^ (m - 2) % m ∧
      exec (.finv mb) s = succeeded s { s.regs with res := v }) ∧
    (b < m → b = 0 → exec (.finv mb) s = failed s .divideByZero) ∧
    (m ≤ b → exec (.finv mb) s = failed s .operandRange)

/-- R128: FDIV, its errors in their order. -/
def Obligations.FdivIsTheProductWithTheFermatPower : Prop :=
  ∀ (ma mb : ModSel) (s : State),
    let x := latched s
    let a := x.opa.toNat
    let b := x.opb.toNat
    let m := modOf x ma
    (a < m → b < modOf x mb → m = modOf x mb → b ≠ 0 →
      ∃ v : Word, v.toNat = a * (b ^ (m - 2) % m) % m ∧
        exec (.fdiv ma mb) s = succeeded s { s.regs with res := v }) ∧
    (¬ (a < m ∧ b < modOf x mb) → exec (.fdiv ma mb) s = failed s .operandRange) ∧
    (a < m → b < modOf x mb → m ≠ modOf x mb → exec (.fdiv ma mb) s = failed s .fieldMismatch) ∧
    (a < m → b < modOf x mb → m = modOf x mb → b = 0 → exec (.fdiv ma mb) s = failed s .divideByZero)

/-- R130: the laws of the field functions, all but division for every modulus, division for a prime one. -/
def Obligations.FieldFunctionsObeyTheFieldLaws : Prop :=
  ∀ m a b c : Nat, 1 ≤ m → a < m → b < m → c < m →
    fadd a b m = fadd b a m ∧ fadd (fadd a b m) c m = fadd a (fadd b c m) m ∧ fadd a 0 m = a ∧
    fsub a a m = 0 ∧ fadd (fsub a b m) b m = a ∧
    fmul a b m = fmul b a m ∧ fmul (fmul a b m) c m = fmul a (fmul b c m) m ∧ fmul a (1 % m) m = a ∧
    fdiv a 0 m = .error .divideByZero ∧
    (m.Prime → b ≠ 0 → ∃ q, q < m ∧ fdiv a b m = .ok q ∧ fmul q b m = a)

/-! ## Curve commands -/

/-- R155, R152: ONCURVE answers the curve equation in `FLAG`, 1 for the identity; a point off the curve is no error. -/
def Obligations.OncurveAnswersTheEquation : Prop :=
  ∀ s : State,
    let x := latched s
    (CurveIn x → x.inf1 = 1 → exec .oncurve s = succeeded s { s.regs with flag := 1 }) ∧
    (CurveIn x → x.inf1 ≠ 1 → x.x1.toNat < x.p.toNat → x.y1.toNat < x.p.toNat →
      (x.y1.toNat ^ 2 % x.p.toNat = (x.x1.toNat ^ 3 + x.a.toNat * x.x1.toNat + x.b.toNat) % x.p.toNat →
        exec .oncurve s = succeeded s { s.regs with flag := 1 }) ∧
      (x.y1.toNat ^ 2 % x.p.toNat ≠ (x.x1.toNat ^ 3 + x.a.toNat * x.x1.toNat + x.b.toNat) % x.p.toNat →
        exec .oncurve s = succeeded s { s.regs with flag := 0 })) ∧
    (¬ (CurveIn x ∧ In1 x) → exec .oncurve s = failed s .operandRange)

/-- R156, R153: PADD by its steps, the errors in their order; the chord formula in exact arithmetic modulo `p`. -/
def Obligations.PaddFollowsItsSteps : Prop :=
  ∀ s : State,
    let x := latched s
    let c := curveOf x
    let p := c.p
    (¬ (CurveIn x ∧ In1 x ∧ In2 x) → exec .padd s = failed s .operandRange) ∧
    (CurveIn x → In1 x → In2 x →
      (¬ (OnCurve c (held1 x) ∧ OnCurve c (held2 x)) → exec .padd s = failed s .offCurve) ∧
      (OnCurve c (held1 x) → OnCurve c (held2 x) →
        (held1 x = .inf → EndsWithPoint s (exec .padd s) (held2 x)) ∧
        (held2 x = .inf → EndsWithPoint s (exec .padd s) (held1 x)) ∧
        (∀ x1 y1 x2 y2, held1 x = .aff x1 y1 → held2 x = .aff x2 y2 →
          (x1 = x2 → (y1 + y2) % p = 0 → EndsWithPoint s (exec .padd s) .inf) ∧
          (x1 = x2 → (y1 + y2) % p ≠ 0 → y1 = y2 → exec .padd s = failed s .invalidPoint) ∧
          (x1 = x2 → (y1 + y2) % p ≠ 0 → y1 ≠ y2 → exec .padd s = failed s .divideByZero) ∧
          (x1 ≠ x2 →
            let sl := (y2 + p - y1) % p * (((x2 + p - x1) % p) ^ (p - 2) % p) % p
            let x3 := ((sl * sl % p + p - x1) % p + p - x2) % p
            let y3 := (sl * ((x1 + p - x3) % p) % p + p - y1) % p
            (OnCurve c (.aff x3 y3) → EndsWithPoint s (exec .padd s) (.aff x3 y3)) ∧
            (¬ OnCurve c (.aff x3 y3) → exec .padd s = failed s .internal)))))

/-- R157, R154: PDBL by its steps; the tangent formula in exact arithmetic modulo `p`, with no check of the result. -/
def Obligations.PdblFollowsItsSteps : Prop :=
  ∀ s : State,
    let x := latched s
    let c := curveOf x
    let p := c.p
    (¬ (CurveIn x ∧ In1 x) → exec .pdbl s = failed s .operandRange) ∧
    (CurveIn x → In1 x →
      (¬ OnCurve c (held1 x) → exec .pdbl s = failed s .offCurve) ∧
      (held1 x = .inf → EndsWithPoint s (exec .pdbl s) .inf) ∧
      (∀ x1 y1, held1 x = .aff x1 y1 → OnCurve c (.aff x1 y1) →
        (2 * y1 % p = 0 → exec .pdbl s = failed s .divideByZero) ∧
        (2 * y1 % p ≠ 0 →
          let sl := (3 * x1 ^ 2 + c.a) % p * ((2 * y1 % p) ^ (p - 2) % p) % p
          let x3 := (sl * sl % p + p - 2 * x1 % p) % p
          let y3 := (sl * ((x1 + p - x3) % p) % p + p - y1) % p
          EndsWithPoint s (exec .pdbl s) (.aff x3 y3))))

/-- R158, R160: SMUL ends as the recursion on point operand 1 and the raw `K` ends, error kinds included. -/
def Obligations.SmulEndsAsTheRecursion : Prop :=
  ScalarCommandRule .smul In1 held1 fun x => x.k.toNat

/-- R159, R160, R164: PUBKEY ends as the recursion on the base point and the raw `D` ends. -/
def Obligations.PubkeyEndsAsTheRecursion : Prop :=
  ScalarCommandRule .pubkey BaseIn baseOf fun x => x.d.toNat

/-- R158, R159 (corner cases): SMUL and PUBKEY complete with `Inf` for the scalar 0 and with the point itself for 1,
for every point on the curve. -/
def Obligations.ScalarCommandsCompleteForZeroAndOne : Prop :=
  ∀ s : State,
    let x := latched s
    (CurveIn x → In1 x → OnCurve (curveOf x) (held1 x) →
      (x.k = 0 → EndsWithPoint s (exec .smul s) .inf) ∧ (x.k = 1 → EndsWithPoint s (exec .smul s) (held1 x))) ∧
    (CurveIn x → BaseIn x → OnCurve (curveOf x) (baseOf x) →
      (x.d = 0 → EndsWithPoint s (exec .pubkey s) .inf) ∧ (x.d = 1 → EndsWithPoint s (exec .pubkey s) (baseOf x)))

/-- R161, for a prime `p`: the identity laws, commutativity of `padd` with its errors, `smul` at 0, 1 and 2, and every
point that `padd`, `pdbl` or `smul` returns is reduced and on the curve. -/
def Obligations.CurveFunctionsObeyTheCurveLaws : Prop :=
  ∀ c : Curve, c.p.Prime → c.a < c.p → c.b < c.p → ∀ pt qt : Point, Reduced c.p pt → Reduced c.p qt →
    (onCurve c pt = true → padd c pt .inf = .ok pt ∧ padd c .inf pt = .ok pt) ∧
    padd c pt qt = padd c qt pt ∧
    (onCurve c pt = true → smul c pt 0 = .ok .inf ∧ smul c pt 1 = .ok pt) ∧
    smul c pt 2 = pdbl c pt ∧
    (∀ rt, padd c pt qt = .ok rt → Reduced c.p rt ∧ onCurve c rt = true) ∧
    (∀ rt, pdbl c pt = .ok rt → Reduced c.p rt ∧ onCurve c rt = true) ∧
    (∀ k rt, smul c pt k = .ok rt → Reduced c.p rt ∧ onCurve c rt = true)

/-- R162 in the group of the curve over the integers mod a prime `p` (Mathlib's): whenever `smul` returns a point, it
is the `k`-fold multiple of its operand. Only the operand need be a non-singular point, not every point of the curve. -/
def Obligations.SmulIsTheGroupMultiple : Prop :=
  ∀ (c : Curve) [Fact c.p.Prime], c.a < c.p → c.b < c.p →
    ∀ (pt rt : Point) (g : (weierstrass c).Point) (k : Nat), Denotes c pt g → smul c pt k = .ok rt →
      Denotes c rt (k • g)

/-- R162 at the commands, in the group of the curve over a prime `p`: for a point of odd prime order `q` and a scalar up
to `q + 1`, SMUL and PUBKEY complete with success and the result point is the multiple. -/
def Obligations.ScalarCommandsGiveTheMultipleUpToTheOrder : Prop :=
  ∀ (s : State) [Fact (curveOf (latched s)).p.Prime] (g : (weierstrass (curveOf (latched s))).Point) (q : Nat),
    let x := latched s
    let c := curveOf x
    CurveIn x → q.Prime → q ≠ 2 → g ≠ 0 → q • g = 0 →
      (In1 x → Denotes c (held1 x) g → x.k.toNat ≤ q + 1 →
        ∃ rt, EndsWithPoint s (exec .smul s) rt ∧ Denotes c rt (x.k.toNat • g)) ∧
      (BaseIn x → Denotes c (baseOf x) g → x.d.toNat ≤ q + 1 →
        ∃ rt, EndsWithPoint s (exec .pubkey s) rt ∧ Denotes c rt (x.d.toNat • g))

/-! ## ECDSA commands -/

/-- R185, R184: KEYGEN by the answers of the random port: the failure ends it, a 0 is rejected and the next answer taken,
any other number `d` becomes `D` and `d*G` the result point, or the error of `smul(G, d)` leaves both as they were. -/
def Obligations.KeygenFollowsItsRule : Prop :=
  ∀ s : State,
    let x := latched s
    (¬ DrawIn x → exec .keygen s = failed s .operandRange) ∧
    (DrawIn x →
      (∀ rest, s.env.rng = .failure :: rest → exec .keygen s = failed (withRng rest s) .rngFailure) ∧
      (∀ rest, s.env.rng = .value 0 :: rest → exec .keygen s = exec .keygen (withRng rest s)) ∧
      (∀ d rest r, s.env.rng = .value d :: rest → 1 ≤ d → d < x.n.toNat → SmulEnds (curveOf x) (baseOf x) d r →
        KeygenEnds (withRng rest s) d (exec .keygen s) r))

/-- R185 with R162, in the group of the curve over a prime `p`: when `N` is an odd prime and the order of the base point,
KEYGEN completes with every answer `d` of `[1, N)`, `D = d` and the result point is `d*G`, never the identity. -/
def Obligations.KeygenMakesAKeyPairOnASoundContext : Prop :=
  ∀ (s : State) [Fact (curveOf (latched s)).p.Prime] (g : (weierstrass (curveOf (latched s))).Point) (d : Nat)
    (rest : List RngAnswer),
    let x := latched s
    CurveIn x → BaseIn x → Denotes (curveOf x) (baseOf x) g → g ≠ 0 → x.n.toNat.Prime → x.n.toNat ≠ 2 →
    x.n.toNat • g = 0 → s.env.rng = .value d :: rest → 1 ≤ d → d < x.n.toNat →
      ∃ vd vx vy : Word, vd.toNat = d ∧ Denotes (curveOf x) (.aff vx.toNat vy.toNat) (d • g) ∧
        exec .keygen s = succeeded (withRng rest s) { s.regs with d := vd, rinf := 0, rx := vx, ry := vy }

/-- R186, R188, R184: SIGN by the answers of the random port: the nonce `k`, `r` the x coordinate of `k*G` modulo `N`,
`s` the quotient `(e + r*d) / k` modulo `N`; `BAD_NONCE` when `k*G` is the identity or `r` or `s` is 0; the errors of
`smul`. -/
def Obligations.SignFollowsItsRule : Prop :=
  ∀ s : State,
    let x := latched s
    let n := x.n.toNat
    let e := x.e.toNat % n
    let d := x.d.toNat % n
    (¬ DrawIn x → exec .sign s = failed s .operandRange) ∧
    (DrawIn x →
      (∀ rest, s.env.rng = .failure :: rest → exec .sign s = failed (withRng rest s) .rngFailure) ∧
      (∀ rest, s.env.rng = .value 0 :: rest → exec .sign s = exec .sign (withRng rest s)) ∧
      (∀ k rest, s.env.rng = .value k :: rest → 1 ≤ k → k < n →
        let s' := withRng rest s
        (∀ kind, SmulEnds (curveOf x) (baseOf x) k (.error kind) → exec .sign s = failed s' kind) ∧
        (SmulEnds (curveOf x) (baseOf x) k (.ok .inf) → exec .sign s = failed s' .badNonce) ∧
        (∀ xR yR, SmulEnds (curveOf x) (baseOf x) k (.ok (.aff xR yR)) →
          let r := xR % n
          let sg := (e + r * d % n) % n * (k ^ (n - 2) % n) % n
          (r = 0 ∨ sg = 0 → exec .sign s = failed s' .badNonce) ∧
          (r ≠ 0 → sg ≠ 0 → ∃ vr vs : Word, vr.toNat = r ∧ vs.toNat = sg ∧
            exec .sign s = succeeded s' { s.regs with r := vr, s := vs }))))

/-- The model's choice of log entry 6: a listed answer of the random port stands for its residue modulo `N`, the answer
in `[0, N)` that R44 asks for. -/
def Obligations.ListedAnswersAreTakenModuloTheBound : Prop :=
  ∀ (i : Instr) (s : State) (v : Nat) (rest : List RngAnswer), i = .keygen ∨ i = .sign → DrawIn (latched s) →
    s.env.rng = .value v :: rest → exec i s = exec i (withRng (.value (v % (latched s).n.toNat) :: rest) s)

/-- R184, R44: with no answer listed, KEYGEN and SIGN end as with one answer, the failure or a number of `[1, n)`,
whatever the free value is (log entry 7). -/
def Obligations.FreeDrawIsAFailureOrInRange : Prop :=
  ∀ (i : Instr) (s : State), i = .keygen ∨ i = .sign → DrawIn (latched s) → s.env.rng = [] →
    ∃ ans, (ans = .failure ∨ ∃ v, ans = .value v ∧ 1 ≤ v ∧ v < (latched s).n.toNat) ∧
      exec i s = exec i (withRng [ans] (afterFreeDraw s))

/-- R187, R189: VERIFY by its steps, the errors in their order; the comparison modulo `N`. -/
def Obligations.VerifyFollowsItsSteps : Prop :=
  ∀ s : State,
    let x := latched s
    let c := curveOf x
    let n := x.n.toNat
    let e := x.e.toNat % n
    let r := x.r.toNat
    let w := x.s.toNat ^ (n - 2) % n
    let u1 := e * w % n
    let u2 := r * w % n
    (¬ VerifyIn x → exec .verify s = failed s .operandRange) ∧
    (VerifyIn x →
      (held2 x = .inf → exec .verify s = failed s .invalidPoint) ∧
      (held2 x ≠ .inf →
        (x.s = 0 → exec .verify s = failed s .divideByZero) ∧
        (x.s ≠ 0 →
          (∀ kind, SmulEnds c (baseOf x) u1 (.error kind) → exec .verify s = failed s kind) ∧
          (∀ a1, SmulEnds c (baseOf x) u1 (.ok a1) →
            (∀ kind, SmulEnds c (held2 x) u2 (.error kind) → exec .verify s = failed s kind) ∧
            (∀ a2, SmulEnds c (held2 x) u2 (.ok a2) →
              (∀ kind, padd c a1 a2 = .error kind → exec .verify s = failed s kind) ∧
              (padd c a1 a2 = .ok .inf → exec .verify s = succeeded s { s.regs with flag := 0 }) ∧
              (∀ xP yP, padd c a1 a2 = .ok (.aff xP yP) →
                (xP % n = r → exec .verify s = succeeded s { s.regs with flag := 1 }) ∧
                (xP % n ≠ r → exec .verify s = succeeded s { s.regs with flag := 0 })))))))

/-- R190: over a prime `p`, a non-singular curve and a base point of odd prime order `n`, a signature made under `d` is
accepted under `Q = d*G`, whatever the digest, except in the one case `e = r*d (mod n)`, where the two summands are the
same point and the verification ends with `INVALID_POINT`. -/
def Obligations.SignaturesVerifyExceptInTheDoublingCase : Prop :=
  ∀ (c : Curve) (gx gy n d k eRaw r sg : Nat) (q : Point),
    c.p.Prime → c.a < c.p → c.b < c.p → (4 * c.a ^ 3 + 27 * c.b ^ 2) % c.p ≠ 0 → gx < c.p → gy < c.p →
    n.Prime → n ≠ 2 → smul c (.aff gx gy) n = .ok .inf →
    1 ≤ d → d < n → smul c (.aff gx gy) d = .ok q → 1 ≤ k → k < n →
    signCore ⟨c, .aff gx gy, n⟩ eRaw d k = .ok (r, sg) →
    (eRaw % n ≠ r * d % n → verifyCore ⟨c, .aff gx gy, n⟩ eRaw q r sg = .ok true) ∧
    (eRaw % n = r * d % n → verifyCore ⟨c, .aff gx gy, n⟩ eRaw q r sg = .error .invalidPoint)

/-! ## All commands -/

/-- R230, R42: every command completes, for every content of the registers: the phase is `Idle`, `BUSY = 0`,
`DONE = 1`, and no coming event is consumed. For KEYGEN and SIGN it leaves out the draw that is rejected without end
(log entry 7, unsafe). -/
def Obligations.EveryCommandCompletes : Prop :=
  ∀ (i : Instr) (s : State), ∃ t, exec i s = .next t ∧ t.phase = .idle ∧ statusBusy t.regs.status = false ∧
    statusDone t.regs.status = true ∧ t.env.inputs = s.env.inputs ∧ t.env.reads = s.env.reads

/-- R236, R239: a completion with a non-zero `ERRCODE` writes `STATUS` and the phase and no register else, no result, no
`D`, no `FLAG`: the kind's code, `DONE = 1`, `BUSY = 0`, and `FATAL = 1` if the kind is `INTERNAL`. -/
def Obligations.ErrorCompletionWritesStatusOnly : Prop :=
  ∀ (i : Instr) (s t : State), exec i s = .next t → statusErr t.regs.status ≠ 0 →
    ∃ kind, t.regs = { s.regs with status := errorStatus kind s.regs.status } ∧
      statusErr t.regs.status = errorCode kind ∧ t.phase = .idle ∧ statusDone t.regs.status = true ∧
      statusBusy t.regs.status = false ∧
      (statusFatal t.regs.status = true ↔ statusFatal s.regs.status = true ∨ kind = .internal)

/-- R240: a command ends with `OPERAND_RANGE` exactly when a register it uses as a field element is out of range (or
`N < 2` in KEYGEN and SIGN), before anything else, with no draw; registers it does not use are not checked. -/
def Obligations.OperandRangeExactlyWhenACheckFails : Prop :=
  ∀ (i : Instr) (s t : State), exec i s = .next t →
    (statusErr t.regs.status = 9 ↔ ¬ RangeOk (latched s) i) ∧
    (¬ RangeOk (latched s) i → exec i s = failed s .operandRange)

/-- R232: the kinds each command can end with, and with a prime `P` no `INTERNAL` from any command and no
`DIVIDE_BY_ZERO` from PADD. -/
def Obligations.CommandsEndWithTheirListedKinds : Prop :=
  ∀ (i : Instr) (s t : State), exec i s = .next t →
    (statusErr t.regs.status = 0 ∨ ∃ kind ∈ kindsOf i, statusErr t.regs.status = errorCode kind) ∧
    ((latched s).p.toNat.Prime → statusErr t.regs.status ≠ 7 ∧ (i = .padd → statusErr t.regs.status ≠ 2))

/-- R238: over a prime `P` no step makes the core fatal. -/
def Obligations.PrimeModulusNeverBecomesFatal : Prop :=
  ∀ s t : State, (latched s).p.toNat.Prime → statusFatal s.regs.status = false → step s = .next t →
    statusFatal t.regs.status = false

/-- R32: the write set of every command, success or error; so no command but LDK1 writes the context (R24), and no
command writes an operand register but KEYGEN `D` and SIGN `R` and `S`. -/
def Obligations.CommandsWriteOnlyTheirResults : Prop :=
  ∀ (i : Instr) (s t : State) (reg : RegName), exec i s = .next t → reg ∉ writesOf i → reg ≠ .status →
    readReg t.regs reg = readReg s.regs reg

/-- R32, R41: the outcome of a command depends on the latched contents of the registers R32 lists for it, and on no
other register. -/
def Obligations.OutcomeDependsOnlyOnTheRegistersRead : Prop :=
  ∀ (i : Instr) (s : State) (w : CmdWord) (snap snap' : Regs),
    s.phase = .busy w snap → (∀ reg ∈ readsOf i, readReg snap reg = readReg snap' reg) →
    exec i { s with phase := .busy w snap' } = exec i s

/-- R26: when a point operand's tag is 1 every command ignores its coordinate registers, whatever they hold. -/
def Obligations.CoordinatesUnderATagAreIgnored : Prop :=
  ∀ (i : Instr) (s : State) (w : CmdWord) (snap : Regs) (u v : Word), s.phase = .busy w snap →
    (snap.inf1 = 1 → exec i { s with phase := .busy w { snap with x1 := u, y1 := v } } = exec i s) ∧
    (snap.inf2 = 1 → exec i { s with phase := .busy w { snap with x2 := u, y2 := v } } = exec i s)

/-- R44: only KEYGEN and SIGN draw; every other command leaves the random port's answers and every free value alone. -/
def Obligations.OnlyKeygenAndSignDraw : Prop :=
  ∀ (i : Instr) (s t : State), exec i s = .next t → i ≠ .keygen → i ≠ .sign → t.env = s.env
end

