-- ==== Sys2Proof/Laws/Arith.lean ====
section
/-! SUPPORT. The value-level functions: what `powMod` and `smul` compute, free of the fuel their definitions run on
(spec/40_field.md R129, spec/41_curve.md R160), and the ranges of the field functions (R123). -/

namespace Sys2Proof.Machine

theorem powModFuel_eq (fuel : Nat) : ∀ (b e m : Nat), e < 2 ^ fuel → powModFuel fuel b e m = b ^ e % m := by
  induction fuel with
  | zero =>
    intro b e m h
    simp [powModFuel, show e = 0 by simpa using h]
  | succ fuel ih =>
    intro b e m h
    unfold powModFuel
    by_cases he : e = 0
    · simp [he]
    · have hhalf : powModFuel fuel (b * b % m) (e / 2) m = (b * b) ^ (e / 2) % m := by
        rw [ih _ _ _ (by rw [Nat.pow_succ] at h; omega), ← Nat.pow_mod]
      have hsq : (b * b) ^ (e / 2) = b ^ (2 * (e / 2)) := by rw [← Nat.pow_two, Nat.pow_mul]
      by_cases hodd : e % 2 = 1
      · have hexp : b * b ^ (2 * (e / 2)) = b ^ e := by rw [← Nat.pow_succ']; congr 1; omega
        simp [he, hodd, hhalf, hsq, Nat.mul_mod_mod, hexp]
      · have hexp : 2 * (e / 2) = e := by omega
        simp [he, hodd, hhalf, hsq, hexp]

/-- `powMod` is the exact natural power reduced modulo `m` (R129). -/
theorem powMod_eq (b e m : Nat) : powMod b e m = b ^ e % m :=
  powModFuel_eq _ _ _ _ Nat.lt_log2_self

theorem finv_eq (b m : Nat) : finv b m = if b = 0 then .error .divideByZero else .ok (b ^ (m - 2) % m) := by
  simp [finv, powMod_eq]

theorem fdiv_eq (a b m : Nat) :
    fdiv a b m = if b = 0 then .error .divideByZero else .ok (a * (b ^ (m - 2) % m) % m) := by
  simp [fdiv, powMod_eq]

theorem fadd_lt (a b : Nat) {m : Nat} (h : 0 < m) : fadd a b m < m := Nat.mod_lt _ h
theorem fsub_lt (a b : Nat) {m : Nat} (h : 0 < m) : fsub a b m < m := Nat.mod_lt _ h
theorem fmul_lt (a b : Nat) {m : Nat} (h : 0 < m) : fmul a b m < m := Nat.mod_lt _ h

/-- How deep the recursion of R160 goes at `k` (R284). -/
def smulDepth (k : Nat) : Nat := if k ≤ 1 then 1 else 2 * k.log2 + k % 2

theorem log2_half {k : Nat} (h : 2 ≤ k) : k.log2 = (k / 2).log2 + 1 := by
  rw [Nat.log2_def]; simp [h]

theorem log2_pred_of_odd {k : Nat} (h : 2 ≤ k) (hodd : k % 2 = 1) : (k - 1).log2 = k.log2 := by
  rw [log2_half h, log2_half (k := k - 1) (by omega), show (k - 1) / 2 = k / 2 by omega]

theorem smulDepth_pred {k : Nat} (h : 2 ≤ k) (hodd : k % 2 = 1) : smulDepth (k - 1) + 1 = smulDepth k := by
  simp [smulDepth, show ¬ k ≤ 1 by omega, show ¬ k - 1 ≤ 1 by omega, log2_pred_of_odd h hodd, hodd,
    show (k - 1) % 2 = 0 by omega]

theorem smulDepth_half {k : Nat} (h : 2 ≤ k) (heven : k % 2 = 0) : smulDepth (k / 2) + 1 ≤ smulDepth k := by
  have h2 := log2_half h
  unfold smulDepth
  by_cases hk : k / 2 ≤ 1
  · simp [hk, show ¬ k ≤ 1 by omega]; omega
  · simp [hk, show ¬ k ≤ 1 by omega]; omega

theorem smulDepth_le_fuel (k : Nat) : smulDepth k ≤ 2 * k.log2 + 1 := by
  unfold smulDepth; split <;> omega

/-- Past the depth of the recursion, more fuel changes nothing. -/
theorem smulFuel_congr (c : Curve) : ∀ (k f g : Nat) (pt : Point), smulDepth k ≤ f → smulDepth k ≤ g →
    smulFuel c f pt k = smulFuel c g pt k := by
  intro k
  induction k using Nat.strong_induction_on with
  | _ k ih =>
    intro f g pt hf hg
    have hpos : 1 ≤ smulDepth k := by
      have h2 := log2_half (k := k)
      unfold smulDepth; split <;> omega
    obtain ⟨f, rfl⟩ : ∃ f', f = f' + 1 := ⟨f - 1, by omega⟩
    obtain ⟨g, rfl⟩ : ∃ g', g = g' + 1 := ⟨g - 1, by omega⟩
    simp only [smulFuel]
    by_cases h1 : k ≤ 1
    · have : k = 0 ∨ k = 1 := by omega
      rcases this with rfl | rfl <;> simp
    · by_cases hodd : k % 2 = 1
      · have hd := smulDepth_pred (by omega) hodd
        simp [hodd, ih (k - 1) (by omega) f g pt (by omega) (by omega)]
      · have hd := smulDepth_half (k := k) (by omega) (by omega)
        simp only [hodd, if_false]
        simp only [fun dbl => ih (k / 2) (by omega) f g dbl (by omega) (by omega)]

/-- `smul` satisfies the recursion of R160, with no bound on its depth left. -/
theorem smul_step (c : Curve) (pt : Point) (k : Nat) :
    smul c pt k =
      if onCurve c pt = false then .error .offCurve
      else if k = 0 then .ok .inf
      else if k = 1 then .ok pt
      else if k % 2 = 1 then (smul c pt (k - 1)).bind (padd c pt)
      else (pdbl c pt).bind fun dbl => smul c dbl (k / 2) := by
  conv_lhs => unfold smul; rw [smulFuel]
  by_cases h1 : k ≤ 1
  · have : k = 0 ∨ k = 1 := by omega
    rcases this with rfl | rfl <;> simp
  · have hk := smulDepth_le_fuel k
    by_cases hodd : k % 2 = 1
    · have hd := smulDepth_pred (by omega) hodd
      have hp := smulDepth_le_fuel (k - 1)
      simp only [hodd, if_true, smul]
      rw [smulFuel_congr c (k - 1) (2 * k.log2 + 1) (2 * (k - 1).log2 + 2) pt (by omega) (by omega)]
      rfl
    · have hd := smulDepth_half (k := k) (by omega) (by omega)
      have hp := smulDepth_le_fuel (k / 2)
      simp only [hodd, if_false, smul]
      simp only [fun dbl => smulFuel_congr c (k / 2) (2 * k.log2 + 1) (2 * (k / 2).log2 + 2) dbl (by omega) (by omega)]
      rfl

end Sys2Proof.Machine
end

