-- ==== Sys2Proof/Laws/State.lean ====
section
/-! SUPPORT. One lemma per field per update of the state, true by `rfl`. -/

namespace Sys2Proof.Machine

@[simp] theorem answerRead_regs (v : Nat) (s : State) : (answerRead v s).regs = s.regs := rfl
@[simp] theorem answerRead_phase (v : Nat) (s : State) : (answerRead v s).phase = s.phase := rfl
@[simp] theorem answerRead_inputs (v : Nat) (s : State) : (answerRead v s).env.inputs = s.env.inputs := rfl
@[simp] theorem answerRead_rng (v : Nat) (s : State) : (answerRead v s).env.rng = s.env.rng := rfl
@[simp] theorem answerRead_reads (v : Nat) (s : State) : (answerRead v s).env.reads = v :: s.env.reads := rfl

@[simp] theorem withInputs_regs (l : List Event) (s : State) : (withInputs l s).regs = s.regs := rfl
@[simp] theorem withInputs_phase (l : List Event) (s : State) : (withInputs l s).phase = s.phase := rfl
@[simp] theorem withInputs_inputs (l : List Event) (s : State) : (withInputs l s).env.inputs = l := rfl
@[simp] theorem withInputs_reads (l : List Event) (s : State) : (withInputs l s).env.reads = s.env.reads := rfl
@[simp] theorem withInputs_rng (l : List Event) (s : State) : (withInputs l s).env.rng = s.env.rng := rfl
@[simp] theorem withInputs_draws (l : List Event) (s : State) : (withInputs l s).env.draws = s.env.draws := rfl

@[simp] theorem raiseError_phase (kind : ErrorKind) (s : State) : (raiseError kind s).phase = .idle := rfl
@[simp] theorem raiseError_env (kind : ErrorKind) (s : State) : (raiseError kind s).env = s.env := rfl
@[simp] theorem raiseError_status (kind : ErrorKind) (s : State) :
    (raiseError kind s).regs.status = errorStatus kind s.regs.status := rfl
theorem raiseError_regs (kind : ErrorKind) (s : State) :
    (raiseError kind s).regs = { s.regs with status := errorStatus kind s.regs.status } := rfl

@[simp] theorem succeed_phase (write : Regs → Regs) (s : State) : (succeed write s).phase = .idle := rfl
@[simp] theorem succeed_env (write : Regs → Regs) (s : State) : (succeed write s).env = s.env := rfl
@[simp] theorem succeed_status (write : Regs → Regs) (s : State) :
    (succeed write s).regs.status = successStatus (write s.regs).status := rfl
theorem succeed_regs (write : Regs → Regs) (s : State) :
    (succeed write s).regs = { write s.regs with status := successStatus (write s.regs).status } := rfl

@[simp] theorem complete_ok {α : Type} (write : α → Regs → Regs) (v : α) (s : State) :
    complete write (.ok v) s = succeed (write v) s := rfl
@[simp] theorem complete_error {α : Type} (write : α → Regs → Regs) (kind : ErrorKind) (s : State) :
    complete write (.error kind) s = raiseError kind s := rfl

@[simp] theorem latchCommand_cmd (w : CmdWord) (s : State) : (latchCommand w s).regs.cmd = w := rfl
@[simp] theorem latchCommand_status (w : CmdWord) (s : State) :
    (latchCommand w s).regs.status = issueStatus s.regs.status := rfl
@[simp] theorem latchCommand_env (w : CmdWord) (s : State) : (latchCommand w s).env = s.env := rfl
@[simp] theorem latchCommand_phase (w : CmdWord) (s : State) :
    (latchCommand w s).phase = .busy w { s.regs with cmd := w } := rfl

@[simp] theorem resetInput_regs (s : State) : (resetInput s).regs = Regs.reset := rfl
@[simp] theorem resetInput_phase (s : State) : (resetInput s).phase = .idle := rfl
@[simp] theorem resetInput_env (s : State) : (resetInput s).env = s.env := rfl

@[simp] theorem writeRes_status (v : Nat) (x : Regs) : (writeRes v x).status = x.status := rfl
@[simp] theorem writeFlag_status (b : Bool) (x : Regs) : (writeFlag b x).status = x.status := rfl
@[simp] theorem writePreset_status (x : Regs) : (writePreset x).status = x.status := rfl
@[simp] theorem writeSignature_status (sig : Nat × Nat) (x : Regs) : (writeSignature sig x).status = x.status := rfl
@[simp] theorem writePoint_status (pt : Point) (x : Regs) : (writePoint pt x).status = x.status := by cases pt <;> rfl
@[simp] theorem writeKeyPair_status (kp : Nat × Point) (x : Regs) : (writeKeyPair kp x).status = x.status := by
  simp [writeKeyPair]

@[simp] theorem latched_of_idle {s : State} (h : s.phase = .idle) : latched s = s.regs := by simp [latched, h]
@[simp] theorem latched_of_busy {s : State} {w : CmdWord} {snap : Regs} (h : s.phase = .busy w snap) :
    latched s = snap := by simp [latched, h]

end Sys2Proof.Machine
end

