-- ==== Sys2Proof/Laws/Status.lean ====
section
/-! SUPPORT. What the writes of `STATUS` do to each of its fields (spec/10_state.md R30). -/

namespace Sys2Proof.Machine

theorem getLsbD_setStatusBit (i j : Nat) (b : Bool) (st : CmdWord) (hi : i < 32) :
    (setStatusBit i b st).getLsbD j = if j = i then b else st.getLsbD j := by
  unfold setStatusBit
  by_cases hj : j < 32
  · cases b <;> by_cases h : j = i <;> simp [h, hi, hj] <;> omega
  · have : j ≠ i := by omega
    simp [this, BitVec.getLsbD_of_ge, show 32 ≤ j by omega]

theorem getLsbD_errMask (j : Nat) (hj : j < 32) : (0xF0#32).getLsbD j = decide (4 ≤ j ∧ j < 8) := by
  have h : ∀ i : Fin 32, (0xF0#32).getLsbD i.val = decide (4 ≤ i.val ∧ i.val < 8) := by decide
  exact h ⟨j, hj⟩

theorem getLsbD_setStatusErr (code : BitVec 4) (j : Nat) (st : CmdWord) :
    (setStatusErr code st).getLsbD j = if 4 ≤ j ∧ j < 8 then code.getLsbD (j - 4) else st.getLsbD j := by
  unfold setStatusErr
  by_cases hj : j < 32
  · rw [BitVec.getLsbD_or, BitVec.getLsbD_and, BitVec.getLsbD_not, getLsbD_errMask j hj, BitVec.getLsbD_shiftLeft,
      BitVec.getLsbD_setWidth]
    by_cases h : 4 ≤ j ∧ j < 8
    · simp only [hj, h, decide_true, Bool.not_true, Bool.and_false, Bool.false_or, and_self, if_true]
      simp [show ¬ j < 4 by omega, show j - 4 < 32 by omega]
    · simp only [hj, h, if_false, decide_false, decide_true, Bool.not_false, Bool.and_true]
      by_cases h4 : j < 4
      · simp [h4]
      · simp [BitVec.getLsbD_of_ge code (j - 4) (by omega)]
  · simp [BitVec.getLsbD_of_ge, show 32 ≤ j by omega, show ¬ j < 8 by omega]

theorem getLsbD_completedStatus (code : BitVec 4) (st : CmdWord) (j : Nat) :
    (completedStatus code st).getLsbD j =
      if j = 0 then false else if j = 1 then true else if 4 ≤ j ∧ j < 8 then code.getLsbD (j - 4) else st.getLsbD j := by
  simp [completedStatus, getLsbD_setStatusBit, getLsbD_setStatusErr]

theorem getLsbD_issueStatus (st : CmdWord) (j : Nat) :
    (issueStatus st).getLsbD j =
      if j = 0 then true else if j = 1 then false else if 4 ≤ j ∧ j < 8 then false else st.getLsbD j := by
  simp only [issueStatus, getLsbD_setStatusBit, getLsbD_setStatusErr, show (0 : Nat) < 32 by omega, show (1 : Nat) < 32 by omega]
  by_cases h0 : j = 0 <;> by_cases h1 : j = 1 <;> simp_all

theorem getLsbD_errorStatus (kind : ErrorKind) (st : CmdWord) (j : Nat) :
    (errorStatus kind st).getLsbD j =
      if j = 2 ∧ kind = .internal then true else (completedStatus (errorCode kind) st).getLsbD j := by
  unfold errorStatus
  by_cases h : kind = .internal <;> simp [h, getLsbD_setStatusBit]

theorem statusErr_eq_of_bits {st st' : CmdWord} (h : ∀ j, 4 ≤ j → j < 8 → st.getLsbD j = st'.getLsbD j) :
    statusErr st = statusErr st' := by
  unfold statusErr
  ext i hi
  simp [BitVec.getElem_extractLsb', h (4 + i) (by omega) (by omega)]

theorem statusErr_of_code {st : CmdWord} {code : BitVec 4}
    (h : ∀ j, 4 ≤ j → j < 8 → st.getLsbD j = code.getLsbD (j - 4)) : statusErr st = code := by
  unfold statusErr
  ext i hi
  simp [BitVec.getElem_extractLsb', h (4 + i) (by omega) (by omega), BitVec.getLsbD_eq_getElem hi]

theorem statusReservedZero_congr {st st' : CmdWord}
    (h : ∀ j, j = 3 ∨ 8 ≤ j → st.getLsbD j = st'.getLsbD j) : statusReservedZero st = statusReservedZero st' := by
  have h24 : st.extractLsb' 8 24 = st'.extractLsb' 8 24 := by
    ext i hi
    simp [BitVec.getElem_extractLsb', h (8 + i) (by omega)]
  rw [statusReservedZero, statusReservedZero, h 3 (.inl rfl), h24]

@[simp] theorem statusBusy_completedStatus (code : BitVec 4) (st : CmdWord) :
    statusBusy (completedStatus code st) = false := by rw [statusBusy, getLsbD_completedStatus]; rfl
@[simp] theorem statusDone_completedStatus (code : BitVec 4) (st : CmdWord) :
    statusDone (completedStatus code st) = true := by rw [statusDone, getLsbD_completedStatus]; rfl
@[simp] theorem statusFatal_completedStatus (code : BitVec 4) (st : CmdWord) :
    statusFatal (completedStatus code st) = statusFatal st := by rw [statusFatal, getLsbD_completedStatus]; rfl
@[simp] theorem statusErr_completedStatus (code : BitVec 4) (st : CmdWord) :
    statusErr (completedStatus code st) = code :=
  statusErr_of_code fun j h4 h8 => by
    simp [getLsbD_completedStatus, h4, h8, show j ≠ 0 by omega, show j ≠ 1 by omega]
@[simp] theorem statusReservedZero_completedStatus (code : BitVec 4) (st : CmdWord) :
    statusReservedZero (completedStatus code st) = statusReservedZero st :=
  statusReservedZero_congr fun j h => by
    simp [getLsbD_completedStatus, show j ≠ 0 by omega, show j ≠ 1 by omega, show ¬ (4 ≤ j ∧ j < 8) by omega]

@[simp] theorem statusBusy_issueStatus (st : CmdWord) : statusBusy (issueStatus st) = true := by
  rw [statusBusy, getLsbD_issueStatus]; rfl
@[simp] theorem statusDone_issueStatus (st : CmdWord) : statusDone (issueStatus st) = false := by
  rw [statusDone, getLsbD_issueStatus]; rfl
@[simp] theorem statusFatal_issueStatus (st : CmdWord) : statusFatal (issueStatus st) = statusFatal st := by
  rw [statusFatal, getLsbD_issueStatus]; rfl
@[simp] theorem statusErr_issueStatus (st : CmdWord) : statusErr (issueStatus st) = 0 :=
  statusErr_of_code fun j h4 h8 => by
    simp [getLsbD_issueStatus, h4, h8, show j ≠ 0 by omega]
@[simp] theorem statusReservedZero_issueStatus (st : CmdWord) :
    statusReservedZero (issueStatus st) = statusReservedZero st :=
  statusReservedZero_congr fun j h => by
    simp [getLsbD_issueStatus, show j ≠ 0 by omega, show j ≠ 1 by omega, show ¬ (4 ≤ j ∧ j < 8) by omega]

@[simp] theorem statusBusy_errorStatus (kind : ErrorKind) (st : CmdWord) : statusBusy (errorStatus kind st) = false := by
  rw [statusBusy, getLsbD_errorStatus, getLsbD_completedStatus]; rfl
@[simp] theorem statusDone_errorStatus (kind : ErrorKind) (st : CmdWord) : statusDone (errorStatus kind st) = true := by
  rw [statusDone, getLsbD_errorStatus, getLsbD_completedStatus]; rfl
@[simp] theorem statusFatal_errorStatus (kind : ErrorKind) (st : CmdWord) :
    statusFatal (errorStatus kind st) = (decide (kind = .internal) || statusFatal st) := by
  rw [statusFatal, getLsbD_errorStatus, getLsbD_completedStatus]
  by_cases h : kind = .internal
  · simp only [h, and_self, if_true, decide_true, Bool.true_or]
  · simp only [h, and_false, if_false, decide_false, Bool.false_or]; rfl
@[simp] theorem statusErr_errorStatus (kind : ErrorKind) (st : CmdWord) :
    statusErr (errorStatus kind st) = errorCode kind :=
  statusErr_of_code fun j h4 h8 => by
    simp [getLsbD_errorStatus, getLsbD_completedStatus, h4, h8, show j ≠ 0 by omega, show j ≠ 1 by omega, show j ≠ 2 by omega]
@[simp] theorem statusReservedZero_errorStatus (kind : ErrorKind) (st : CmdWord) :
    statusReservedZero (errorStatus kind st) = statusReservedZero st :=
  statusReservedZero_congr fun j h => by
    simp [getLsbD_errorStatus, getLsbD_completedStatus, show j ≠ 0 by omega, show j ≠ 1 by omega, show j ≠ 2 by omega,
      show ¬ (4 ≤ j ∧ j < 8) by omega]

@[simp] theorem statusBusy_successStatus (st : CmdWord) : statusBusy (successStatus st) = false :=
  statusBusy_completedStatus 0 st
@[simp] theorem statusDone_successStatus (st : CmdWord) : statusDone (successStatus st) = true :=
  statusDone_completedStatus 0 st
@[simp] theorem statusFatal_successStatus (st : CmdWord) : statusFatal (successStatus st) = statusFatal st :=
  statusFatal_completedStatus 0 st
@[simp] theorem statusErr_successStatus (st : CmdWord) : statusErr (successStatus st) = 0 :=
  statusErr_completedStatus 0 st
@[simp] theorem statusReservedZero_successStatus (st : CmdWord) :
    statusReservedZero (successStatus st) = statusReservedZero st := statusReservedZero_completedStatus 0 st

/-- No error kind has the code of success (R231). -/
@[simp] theorem errorCode_ne_zero (kind : ErrorKind) : errorCode kind ≠ 0 := by cases kind <;> decide
/-- Codes 10 to 15 are never produced (R231). -/
theorem errorCode_le (kind : ErrorKind) : (errorCode kind).toNat ≤ 9 := by cases kind <;> decide
theorem errorCode_eq_internal {kind : ErrorKind} : errorCode kind = 7 ↔ kind = .internal := by
  cases kind <;> decide

end Sys2Proof.Machine
end

