-- ==== Sys2Proof/Laws/Ops.lean ====
section
/-! SUPPORT. One lemma per shared operation that says once everything it can do. -/

namespace Sys2Proof.Machine

/-- A completion is a success with the outcome's value or an error with its kind (R42, R236). -/
theorem complete_cases {α : Type} (write : α → Regs → Regs) (outcome : Result α) (s : State) :
    (∃ v, outcome = .ok v ∧ complete write outcome s = succeed (write v) s) ∨
    (∃ kind, outcome = .error kind ∧ complete write outcome s = raiseError kind s) := by
  cases outcome with
  | ok v => exact .inl ⟨v, rfl, rfl⟩
  | error kind => exact .inr ⟨kind, rfl, rfl⟩

/-- The free outcome of a rejection loop is the failure or a number of `[1, n)` (R184). -/
theorem freeDraw_cases {n : Nat} (i : Nat) (hn : 2 ≤ n) :
    freeDraw n i = .error .rngFailure ∨ ∃ v, 1 ≤ v ∧ v < n ∧ freeDraw n i = .ok v := by
  unfold freeDraw
  cases Config.randomAnswer i with
  | none => exact .inl rfl
  | some v =>
    have := Nat.mod_lt v (show 0 < n - 1 by omega)
    exact .inr ⟨1 + v % (n - 1), by omega, by omega, rfl⟩

/-- A drawn number lies in `[1, n)`; the only error is the failure of the source (R184). -/
theorem drawFrom_cases {n : Nat} (i : Nat) (hn : 2 ≤ n) (l : List RngAnswer) :
    (drawFrom n i l).1 = .error .rngFailure ∨ ∃ v, 1 ≤ v ∧ v < n ∧ (drawFrom n i l).1 = .ok v := by
  induction l with
  | nil => simpa [drawFrom] using freeDraw_cases i hn
  | cons ans rest ih =>
    cases ans with
    | failure => exact .inl rfl
    | value v =>
      unfold drawFrom
      by_cases h : v % n = 0
      · simpa [h] using ih
      · have := Nat.mod_lt v (show 0 < n by omega)
        exact .inr ⟨v % n, by omega, this, by simp [h]⟩

@[simp] theorem drawNonzero_regs (n : Nat) (s : State) : (drawNonzero n s).2.regs = s.regs := rfl
@[simp] theorem drawNonzero_phase (n : Nat) (s : State) : (drawNonzero n s).2.phase = s.phase := rfl
@[simp] theorem drawNonzero_inputs (n : Nat) (s : State) : (drawNonzero n s).2.env.inputs = s.env.inputs := rfl
@[simp] theorem drawNonzero_reads (n : Nat) (s : State) : (drawNonzero n s).2.env.reads = s.env.reads := rfl

/-- A command that draws fails its range checks with no draw, or draws and then completes (R185, R186, R241). -/
theorem completeWithDraw_cases {α : Type} (write : α → Regs → Regs) (checks : Result EcdsaCtx)
    (f : EcdsaCtx → Nat → Result α) (s : State) :
    (∃ kind, checks = .error kind ∧ completeWithDraw write checks f s = raiseError kind s) ∨
    (∃ ec, checks = .ok ec ∧ completeWithDraw write checks f s =
      complete write ((drawNonzero ec.n s).1.bind (f ec)) (drawNonzero ec.n s).2) := by
  cases checks with
  | error kind => exact .inl ⟨kind, rfl, rfl⟩
  | ok ec => exact .inr ⟨ec, rfl, rfl⟩

@[simp] theorem hostRead_regs (num : Nat) (s : State) : (hostRead num s).regs = s.regs := by
  unfold hostRead
  split
  · rfl
  · rfl
  · split <;> rfl

@[simp] theorem hostRead_phase (num : Nat) (s : State) : (hostRead num s).phase = s.phase := by
  unfold hostRead
  split
  · rfl
  · rfl
  · split <;> rfl

@[simp] theorem hostRead_inputs (num : Nat) (s : State) : (hostRead num s).env.inputs = s.env.inputs := by
  unfold hostRead
  split
  · rfl
  · rfl
  · split <;> rfl

/-- A host write does nothing, issues a command, or writes one writable register (R63 to R66). -/
theorem hostWrite_cases (num v : Nat) (s : State) :
    hostWrite num v s = s ∨
    (num = 0x30 ∧ statusBusy s.regs.status = false ∧ statusFatal s.regs.status = false ∧
      hostWrite num v s = latchCommand (BitVec.ofNat 32 v) s) ∨
    (∃ reg, regAt num = some reg ∧ regWritable reg = true ∧ reg ≠ .cmd ∧ statusBusy s.regs.status = false ∧
      hostWrite num v s = { s with regs := writeReg s.regs v reg }) := by
  unfold hostWrite
  split
  · exact .inl rfl
  · rename_i reg hreg
    by_cases hb : statusBusy s.regs.status = true
    · exact .inl (by simp [hb])
    · by_cases hw : regWritable reg = false
      · exact .inl (by simp [hb, hw])
      · by_cases hc : reg = .cmd
        · subst hc
          have hnum : num = 0x30 := by
            have h := List.find?_some hreg
            simp [regNumber] at h
            exact h.symm
          by_cases hf : statusFatal s.regs.status = true
          · exact .inl (by simp [hb, hw, issue, hf])
          · exact .inr (.inl ⟨hnum, by simpa using hb, by simpa using hf, by simp [hb, hw, issue, hf]⟩)
        · exact .inr (.inr ⟨reg, hreg, by simpa using hw, hc, by simpa using hb, by simp [hb, hw, hc]⟩)

/-- A writable register other than `CMD` is not `STATUS`: a host write leaves `STATUS` as it was (R63). -/
theorem writeReg_status {reg : RegName} (v : Nat) (x : Regs) (h : regWritable reg = true) :
    (writeReg x v reg).status = x.status := by
  cases reg <;> first | rfl | simp [regWritable] at h

/-- Reading back the register just written, for a value of its width (R63). -/
theorem readReg_writeReg_same (reg : RegName) (v : Nat) (x : Regs) (h : v < 2 ^ regWidth reg) :
    readReg (writeReg x v reg) reg = v := by
  cases reg <;> simp only [readReg, writeReg, BitVec.toNat_ofNat] <;> exact Nat.mod_eq_of_lt h

/-- Writing a register leaves every other one (R63). -/
theorem readReg_writeReg_other {reg reg' : RegName} (v : Nat) (x : Regs) (h : reg' ≠ reg) :
    readReg (writeReg x v reg) reg' = readReg x reg' := by
  cases reg <;> cases reg' <;> first | rfl | exact absurd rfl h

end Sys2Proof.Machine
end

