-- ==== Sys2Proof/Laws/PerInstr.lean ====
section
/-! SUPPORT. Families of statements made per instruction. `Encoding`: the word of every command agrees with its row of
spec/opcode_table.json, the bits under the row's mask being the row's match (spec/30_encoding.md R95). -/

namespace Sys2Proof.Laws.Encoding

/-- The row's mask (R95). -/
def rowMask : Instr → CmdWord
  | .fadd _ _ | .fsub _ _ | .fmul _ _ | .fdiv _ _ => 0xFFFFFCFF#32
  | .finv _ => 0xFFFFFDFF#32
  | .nop | .ldk1 | .oncurve | .padd | .pdbl | .smul | .pubkey | .keygen | .sign | .verify => 0xFFFFFFFF#32

/-- The row's match (R95). -/
def rowMatch : Instr → CmdWord
  | .nop => 0x00000000#32
  | .ldk1 => 0x00000001#32
  | .fadd _ _ => 0x00000010#32
  | .fsub _ _ => 0x00000011#32
  | .fmul _ _ => 0x00000012#32
  | .finv _ => 0x00000013#32
  | .fdiv _ _ => 0x00000014#32
  | .oncurve => 0x00000020#32
  | .padd => 0x00000021#32
  | .pdbl => 0x00000022#32
  | .smul => 0x00000023#32
  | .pubkey => 0x00000024#32
  | .keygen => 0x00000030#32
  | .sign => 0x00000031#32
  | .verify => 0x00000032#32

/-- The word of a well-formed command matches its row. -/
def Statement (i : Instr) : Prop := i.wf = true → encode i &&& rowMask i = rowMatch i

theorem nop : Statement .nop := fun _ => by decide
theorem ldk1 : Statement .ldk1 := fun _ => by decide
theorem fadd (ma mb : ModSel) : Statement (.fadd ma mb) := fun _ => by cases ma <;> cases mb <;> decide
theorem fsub (ma mb : ModSel) : Statement (.fsub ma mb) := fun _ => by cases ma <;> cases mb <;> decide
theorem fmul (ma mb : ModSel) : Statement (.fmul ma mb) := fun _ => by cases ma <;> cases mb <;> decide
theorem finv (mb : ModSel) : Statement (.finv mb) := fun _ => by cases mb <;> decide
theorem fdiv (ma mb : ModSel) : Statement (.fdiv ma mb) := fun _ => by cases ma <;> cases mb <;> decide
theorem oncurve : Statement .oncurve := fun _ => by decide
theorem padd : Statement .padd := fun _ => by decide
theorem pdbl : Statement .pdbl := fun _ => by decide
theorem smul : Statement .smul := fun _ => by decide
theorem pubkey : Statement .pubkey := fun _ => by decide
theorem keygen : Statement .keygen := fun _ => by decide
theorem sign : Statement .sign := fun _ => by decide
theorem verify : Statement .verify := fun _ => by decide

end Sys2Proof.Laws.Encoding
end

