-- ==== Sys2Proof/Tests/Slice0.lean ====
section
/-! SUPPORT. The model's own tests: the WellFormed smoke, a decoded word for every command, small single steps with the
values of spec/95_test_vectors.md (named in each comment), and witnesses that meet the hypotheses of every statement. -/

namespace Sys2Proof.Tests

open Sys2Proof Sys2Proof.Machine Sys2Proof.Spec

set_option Elab.async false

/-! ## Helpers -/

/-- The toy context: `LDCURVE 17, 2, 2, 5, 1, 19` after reset. -/
def toy : Regs := { Regs.reset with p := 17, a := 2, b := 2, gx := 5, gy := 1, n := 19 }

/-- The reset machine with these registers. -/
def holding (x : Regs) : State := { State.reset with regs := x }

/-- The command word `w` issued on these registers, its completion next, with these answers of the random port. -/
def issued (w : Nat) (x : Regs) (answers : List RngAnswer := []) : State :=
  withRng answers ((holding x).withFetchWord 32 w)

/-- The idle machine with one event to come. -/
def facing (ev : Event) (x : Regs) : State := withInputs [ev] (holding x)

/-- The step answers a next state whose registers pass the check. -/
def ends (s : State) (check : Regs → Bool) : Bool :=
  match step s with
  | .next t => check t.regs
  | _ => false

/-! ## Well-formed terms, refused ill-formed ones (20_memory.md R61, R63, R66) -/

theorem test_read_off_port_is_ill_formed : (Event.read 0x40).wf = false := by decide
theorem test_write_off_port_is_ill_formed : (Event.write 0x40 0).wf = false := by decide
theorem test_write_too_wide_for_tag_is_ill_formed : (Event.write 0x14 2).wf = false := by decide
theorem test_write_too_wide_for_cmd_is_ill_formed : (Event.write 0x30 (2 ^ 32)).wf = false := by decide
theorem test_write_too_wide_for_word_is_ill_formed : (Event.write 0x1A (2 ^ 256)).wf = false := by decide
theorem test_write_to_unmapped_is_well_formed : (Event.write 0x3F 1).wf = true := by decide
theorem test_widest_cmd_write_is_well_formed : (Event.write 0x30 0xFFFFFFFF).wf = true := by decide
theorem test_every_command_is_well_formed (i : Instr) : i.wf = true := by cases i <;> rfl

/-! ## Decoding: words written out from R90 and R95, `rsv` (bits 31:10), `mb`, `ma`, `op` (bits 7:0) -/

theorem test_decode_nop : decode 0b0000000000000000000000_0_0_00000000 = .ok .nop := by decide
theorem test_decode_ldk1 : decode 0b0000000000000000000000_0_0_00000001 = .ok .ldk1 := by decide
theorem test_decode_fadd : decode 0b0000000000000000000000_0_1_00010000 = .ok (.fadd .n .p) := by decide
theorem test_decode_fsub : decode 0b0000000000000000000000_1_0_00010001 = .ok (.fsub .p .n) := by decide
theorem test_decode_fmul : decode 0b0000000000000000000000_1_1_00010010 = .ok (.fmul .n .n) := by decide
theorem test_decode_finv : decode 0b0000000000000000000000_1_0_00010011 = .ok (.finv .n) := by decide
theorem test_decode_fdiv : decode 0b0000000000000000000000_0_0_00010100 = .ok (.fdiv .p .p) := by decide
theorem test_decode_oncurve : decode 0b0000000000000000000000_0_0_00100000 = .ok .oncurve := by decide
theorem test_decode_padd : decode 0b0000000000000000000000_0_0_00100001 = .ok .padd := by decide
theorem test_decode_pdbl : decode 0b0000000000000000000000_0_0_00100010 = .ok .pdbl := by decide
theorem test_decode_smul : decode 0b0000000000000000000000_0_0_00100011 = .ok .smul := by decide
theorem test_decode_pubkey : decode 0b0000000000000000000000_0_0_00100100 = .ok .pubkey := by decide
theorem test_decode_keygen : decode 0b0000000000000000000000_0_0_00110000 = .ok .keygen := by decide
theorem test_decode_sign : decode 0b0000000000000000000000_0_0_00110001 = .ok .sign := by decide
theorem test_decode_verify : decode 0b0000000000000000000000_0_0_00110010 = .ok .verify := by decide
/-- V-X1 to V-X5, and a reserved top bit. -/
theorem test_decode_refuses :
    decode 0x15 = .error .reservedOpcode ∧ decode 0x412 = .error .reservedBits ∧
    decode 0x113 = .error .reservedBits ∧ decode 0x120 = .error .reservedBits ∧
    decode 0xFFFFFFFF = .error .reservedOpcode ∧ decode 0x80000012 = .error .reservedBits := by decide

/-! ## Single steps of every command -/

/-- R211's example. -/
theorem test_nop : ends (issued 0x00 Regs.reset) (fun x => x.status == 2 && x.p == Regs.reset.p) = true := by
  decide +kernel
/-- R212's example, V-X16. -/
theorem test_ldk1 : ends (issued 0x01 toy) (fun x => x.b == 7 && x.a == 0 && x.n == Regs.reset.n) = true := by
  decide +kernel
/-- V-F1. -/
theorem test_fadd_wraps :
    ends (issued 0x10 { toy with opa := 16, opb := 16 }) (fun x => x.res == 15 && x.status == 2) = true := by
  decide +kernel
/-- V-F17. -/
theorem test_fadd_mismatch :
    ends (issued 0x110 { toy with opa := 3, opb := 4, res := 9 }) (fun x => x.res == 9 && x.status == 0x12) = true := by
  decide +kernel
/-- V-F3. -/
theorem test_fsub_borrows :
    ends (issued 0x11 { toy with opa := 0, opb := 16 }) (fun x => x.res == 1 && x.status == 2) = true := by
  decide +kernel
/-- V-F33. -/
theorem test_fsub_full_width :
    ends (issued 0x11 { Regs.reset with opa := Config.presetGY, opb := Config.presetGX }) (fun x =>
      x.res == 0xCE7C73F82CC708B9080499663F89FDA1FA7BB76D78B72B4042554F33E418B94F#256) = true := by decide +kernel
/-- V-F29. -/
theorem test_fmul_full_width :
    ends (issued 0x12 { Regs.reset with opa := Config.presetGX, opb := Config.presetGY }) (fun x =>
      x.res == 0xFD3DC529C6EB60FB9D166034CF3C1A5A72324AA9DFD3428A56D7E1CE0179FD9B#256) = true := by decide +kernel
/-- V-F24. -/
theorem test_fmul_even_modulus :
    ends (issued 0x12 { toy with p := 8, opa := 6, opb := 4, res := 9 }) (fun x => x.res == 0 && x.status == 2) = true := by
  decide +kernel
/-- V-F28. -/
theorem test_finv_full_width :
    ends (issued 0x13 { Regs.reset with opb := 2 }) (fun x =>
      x.res == 0x7FFFFFFFFFFFFFFFFFFFFFFFFFFFFFFFFFFFFFFFFFFFFFFFFFFFFFFF7FFFFE18#256) = true := by decide +kernel
/-- V-F22. -/
theorem test_finv_composite : ends (issued 0x13 { toy with p := 9, opb := 2 }) (fun x => x.res == 2) = true := by
  decide +kernel
/-- V-D1. -/
theorem test_fdiv : ends (issued 0x14 { toy with p := 7, opa := 2, opb := 4 }) (fun x => x.res == 4) = true := by
  decide +kernel
/-- V-F20. -/
theorem test_fdiv_mismatch_before_zero :
    ends (issued 0x214 { toy with opa := 3, opb := 0 }) (fun x => x.status == 0x12) = true := by decide +kernel
/-- V-D4. -/
theorem test_oncurve_off :
    ends (issued 0x20 { toy with x1 := 5, y1 := 2, flag := 1 }) (fun x => x.flag == 0 && x.status == 2) = true := by
  decide +kernel
/-- V-C6a. -/
theorem test_oncurve_identity :
    ends (issued 0x20 { toy with x1 := 99, y1 := 3, inf1 := 1 }) (fun x => x.flag == 1) = true := by decide +kernel
/-- V-D3, row 3. -/
theorem test_padd :
    ends (issued 0x21 { toy with x1 := 5, y1 := 1, x2 := 9, y2 := 16, rinf := 1 })
      (fun x => x.rx == 16 && x.ry == 13 && x.rinf == 0) = true := by decide +kernel
/-- V-C5b. -/
theorem test_padd_internal_is_fatal :
    ends (issued 0x21 { toy with p := 9, a := 1, b := 0, x2 := 2, y2 := 1 }) (fun x => x.status == 0x76) = true := by
  decide +kernel
/-- V-C3b. -/
theorem test_pdbl :
    ends (issued 0x22 { toy with x1 := 7, y1 := 6 }) (fun x => x.rx == 5 && x.ry == 16) = true := by decide +kernel
/-- V-C3f. -/
theorem test_pdbl_order_two :
    ends (issued 0x22 { toy with a := 16, b := 0 }) (fun x => x.status == 0x22) = true := by decide +kernel
/-- V-C8b. -/
theorem test_smul_full_width :
    ends (issued 0x23 { Regs.reset with x1 := Config.presetGX, y1 := Config.presetGY, k := 3 })
      (fun x => x.rx == 0xF9308A019258C31049344F85F89D5229B531C845836F99B08601F113BCE036F9#256 &&
        x.ry == 0x388F7B0F632DE8140FE337E62A37F3566500A99934C2231B6CB9FD7584B8E672#256) = true := by decide +kernel
/-- V-C1, `k = 21`. -/
theorem test_smul_doubling_case :
    ends (issued 0x23 { toy with x1 := 5, y1 := 1, k := 21 }) (fun x => x.status == 0x42) = true := by decide +kernel
/-- V-C7f. -/
theorem test_pubkey_raw_scalar :
    ends (issued 0x24 { toy with d := 26, rx := 1 }) (fun x => x.rx == 0 && x.ry == 6 && x.d == 26) = true := by
  decide +kernel
/-- V-C7g. -/
theorem test_pubkey_off_curve : ends (issued 0x24 { toy with gy := 2, d := 7 }) (fun x => x.status == 0x32) = true := by
  decide +kernel
/-- V-E14. -/
theorem test_keygen_rejects_zeros :
    ends (issued 0x30 toy [.value 0, .value 0, .value 3]) (fun x => x.d == 3 && x.rx == 10 && x.ry == 6) = true := by
  decide +kernel
/-- V-E15. -/
theorem test_keygen_rng_failure :
    ends (issued 0x30 { toy with d := 5 } [.failure]) (fun x => x.d == 5 && x.status == 0x62) = true := by decide +kernel
/-- V-E21. -/
theorem test_sign_reduces_scalar :
    ends (issued 0x31 { toy with d := 26, e := 26 } [.value 10]) (fun x => x.r == 7 && x.s == 17) = true := by
  decide +kernel
/-- V-E4 (c). -/
theorem test_sign_bad_nonce :
    ends (issued 0x31 { toy with d := 7, e := 8 } [.value 10]) (fun x => x.r == 0 && x.status == 0x52) = true := by
  decide +kernel
/-- V-E2. -/
theorem test_verify_accepts :
    ends (issued 0x32 { toy with e := 26, r := 7, s := 17, x2 := 0, y2 := 6 }) (fun x => x.flag == 1 && x.status == 2)
      = true := by decide +kernel
/-- V-E10. -/
theorem test_verify_identity_before_zero :
    ends (issued 0x32 { toy with e := 26, r := 7, s := 0, inf2 := 1 }) (fun x => x.status == 0x42) = true := by
  decide +kernel

/-! ## Host accesses, illegal words, reset -/

/-- R67: the first byte is the most significant. -/
theorem test_digest_first_byte_is_highest : digestNumber ((Vector.replicate 32 0).set 0 1) = 256 ^ 31 := by decide +kernel
/-- V-X1. -/
theorem test_illegal_word : ends (issued 0x15 toy) (fun x => x.status == 0x82 && x.cmd == 0x15) = true := by decide +kernel
/-- V-X10. -/
theorem test_issue_sets_busy :
    ends (facing (.write 0x30 0x12) { toy with status := 0x42 }) (fun x => x.status == 1 && x.cmd == 0x12) = true := by
  decide +kernel
/-- V-X13. -/
theorem test_fatal_ignores_cmd :
    ends (facing (.write 0x30 0) { toy with status := 0x76, cmd := 0x21 }) (fun x => x.status == 0x76 && x.cmd == 0x21)
      = true := by decide +kernel
/-- V-X14. -/
theorem test_reset_clears_fatal : ends (facing .reset { toy with status := 0x76 }) (fun x => x == Regs.reset) = true := by
  decide +kernel
/-- V-X8. -/
theorem test_write_to_res_is_ignored : ends (facing (.write 0x20 5) toy) (fun x => x.res == 0) = true := by decide +kernel
/-- V-X9. -/
theorem test_read_of_unmapped_is_zero :
    (match step (facing (.read 0x06) toy) with | .next t => t.env.reads | _ => []) = [0] := by decide +kernel

/-! ## Witnesses: states and operands that meet the hypotheses of each statement, clause by clause -/

/-- The busy machine with these events to come. -/
def busyFacing (evs : List Event) (x : Regs) : State := withInputs evs (holding x |> latchCommand 0x12)

theorem witness_DecodeAcceptsExactlyTheLegalWords : ((0x00000000 : CmdWord), Instr.nop) ∈ legalWords := by decide
theorem witness_DecodeOfEncodeIsIdentity : (Instr.fdiv .n .p).wf = true := by decide
theorem witness_EncodeOfDecodeIsIdentity : decode 0x00000213 = .ok (.finv .n) := by decide

theorem witness_StepRuns_no_event :
    (busyFacing [] toy).phase = .busy 0x12 { toy with cmd := 0x12 } ∧ decode 0x12 = .ok (.fmul .p .p) ∧
      (busyFacing [] toy).env.inputs = [] := by decide +kernel
theorem witness_StepRuns_completion_next :
    (busyFacing [.complete, .reset] toy).phase = .busy 0x12 { toy with cmd := 0x12 } ∧
      decode 0x12 = .ok (.fmul .p .p) ∧ (busyFacing [.complete, .reset] toy).env.inputs = .complete :: [.reset] := by
  decide +kernel
theorem witness_IllegalWord :
    let s := withInputs [.write 0x30 0xFFFFFFFF, .complete] (holding toy)
    decode 0xFFFFFFFF = .error .reservedOpcode ∧ statusBusy s.regs.status = false ∧
      statusFatal s.regs.status = false ∧
      s.env.inputs = .write 0x30 (0xFFFFFFFF : CmdWord).toNat :: .complete :: [] := by decide +kernel
theorem witness_IllegalWord_busy :
    (withInputs [] (latchCommand 0x113 (holding toy))).phase = .busy 0x113 { toy with cmd := 0x113 } ∧
      decode 0x113 = .error .reservedBits ∧ (withInputs [] (latchCommand 0x113 (holding toy))).env.inputs = [] := by
  decide +kernel
theorem witness_ResetGives : RegName.status ∉ [RegName.p, .a, .b, .gx, .gy, .n] := by decide
theorem witness_ResetActs_busy : (busyFacing [.reset] toy).env.inputs = .reset :: [] := by decide +kernel
theorem witness_ResetActs_clears_fatal :
    ∃ t, step (facing .reset { toy with status := 0x76 }) = .next t ∧
      statusFatal (facing .reset { toy with status := 0x76 }).regs.status = true ∧
      statusFatal t.regs.status = false := ⟨_, rfl, by decide +kernel, by decide +kernel⟩
theorem witness_EveryStep_idle :
    ∃ t, Inv (facing (.write 0x30 0) Regs.reset) ∧ step (facing (.write 0x30 0) Regs.reset) = .next t :=
  ⟨_, by decide +kernel, rfl⟩
theorem witness_EveryStep_busy : ∃ t, Inv (busyFacing [.complete] toy) ∧ step (busyFacing [.complete] toy) = .next t :=
  ⟨_, by decide +kernel, rfl⟩
theorem witness_FatalIsSticky :
    let s := facing (.write 0x30 0) { toy with status := 0x76 }
    ∃ t, Inv s ∧ statusFatal s.regs.status = true ∧ step s = .next t ∧ s.env.inputs.head? ≠ some .reset :=
  ⟨_, by decide +kernel, by decide +kernel, rfl, by decide +kernel⟩

/-- V-C5b, the state in which PADD meets `INTERNAL`. -/
def internalNext : State := issued 0x21 { toy with p := 9, a := 1, b := 0, x2 := 2, y2 := 1 }

theorem witness_OnlyInternalSetsFatal :
    ∃ t, step internalNext = .next t ∧ statusFatal internalNext.regs.status = false ∧
      statusFatal t.regs.status = true := ⟨_, rfl, by decide +kernel, by decide +kernel⟩
theorem witness_Done_rises :
    ∃ t, (busyFacing [.complete] toy).phase = .busy 0x12 { toy with cmd := 0x12 } ∧
      (busyFacing [.complete] toy).env.inputs = .complete :: [] ∧ step (busyFacing [.complete] toy) = .next t :=
  ⟨_, by decide +kernel, by decide +kernel, rfl⟩
theorem witness_Done_falls_at_issue :
    ∃ t, step (facing (.write 0x30 0) { toy with status := 2 }) = .next t ∧
      doneOutput (facing (.write 0x30 0) { toy with status := 2 }) = true ∧ doneOutput t = false :=
  ⟨_, rfl, by decide +kernel, by decide +kernel⟩
theorem witness_Done_falls_at_reset :
    ∃ t, step (facing .reset { toy with status := 2 }) = .next t ∧
      doneOutput (facing .reset { toy with status := 2 }) = true ∧ doneOutput t = false :=
  ⟨_, rfl, by decide +kernel, by decide +kernel⟩
theorem witness_BusyCommandCompletes :
    (busyFacing [.read 0x31, .write 0x14 1] toy).phase ≠ .idle ∧
      inputsOk (busyFacing [.read 0x31, .write 0x14 1] toy) = true := by decide +kernel
theorem witness_WellFormedRuns_next : inputsOk (facing (.read 0x3F) toy) = true := by decide +kernel
theorem witness_WellFormedRuns_fatal :
    inputsOk (holding { toy with status := 0x76 }) = true ∧
      step (holding { toy with status := 0x76 }) = .fault .fatalAtRest := ⟨by decide +kernel, rfl⟩

theorem witness_RegisterMap_first : (0x00, RegName.p, 256, true) ∈ registerTable := by decide
theorem witness_RegisterMap_last : (0x31, RegName.status, 32, false) ∈ registerTable := by decide
theorem witness_RegisterMap_unmapped :
    (∀ entry ∈ registerTable, entry.1 ≠ 0x32) ∧ (∀ entry ∈ registerTable, entry.1 ≠ 0x06) := by decide
theorem witness_HostRead_unmapped :
    (0x3F : Nat) ≤ 0x3F ∧ (facing (.read 0x3F) toy).env.inputs = .read 0x3F :: [] ∧ regAt 0x3F = none := by
  decide +kernel
theorem witness_HostRead_status_while_busy :
    (0x31 : Nat) ≤ 0x3F ∧ (busyFacing [.read 0x31] toy).env.inputs = .read 0x31 :: [] ∧ regAt 0x31 = some .status := by
  decide +kernel
theorem witness_HostRead_not_busy :
    (0x14 : Nat) ≤ 0x3F ∧ (facing (.read 0x14) toy).env.inputs = .read 0x14 :: [] ∧ regAt 0x14 = some .inf1 ∧
      statusBusy (facing (.read 0x14) toy).regs.status = false := by decide +kernel
theorem witness_HostWrite_unmapped :
    (0x06 : Nat) ≤ 0x3F ∧ (facing (.write 0x06 5) toy).env.inputs = .write 0x06 5 :: [] ∧ regAt 0x06 = none := by
  decide +kernel
theorem witness_HostWrite_busy :
    (0x14 : Nat) ≤ 0x3F ∧ (busyFacing [.write 0x14 1] toy).env.inputs = .write 0x14 1 :: [] ∧
      regAt 0x14 = some .inf1 ∧ 1 < 2 ^ regWidth .inf1 ∧ statusBusy (busyFacing [.write 0x14 1] toy).regs.status = true := by
  decide +kernel
theorem witness_HostWrite_read_only :
    (facing (.write 0x31 0xFFFFFFFF) toy).env.inputs = .write 0x31 0xFFFFFFFF :: [] ∧ regAt 0x31 = some .status ∧
      0xFFFFFFFF < 2 ^ regWidth .status ∧ RegName.status ∈ [RegName.res, .rx, .ry, .rinf, .flag, .status] := by
  decide +kernel
theorem witness_HostWrite_sets :
    (facing (.write 0x1A (2 ^ 256 - 1)) toy).env.inputs = .write 0x1A (2 ^ 256 - 1) :: [] ∧ regAt 0x1A = some .e ∧
      2 ^ 256 - 1 < 2 ^ regWidth .e ∧ statusBusy (facing (.write 0x1A (2 ^ 256 - 1)) toy).regs.status = false ∧
      RegName.e ∉ [RegName.res, .rx, .ry, .rinf, .flag, .status, .cmd] := by decide +kernel
theorem witness_HostWrite_command :
    (0x30 : Nat) ≤ 0x3F ∧ (facing (.write 0x30 0xFFFFFFFF) toy).env.inputs = .write 0x30 0xFFFFFFFF :: [] ∧
      0xFFFFFFFF < 2 ^ 32 ∧ statusBusy (facing (.write 0x30 0xFFFFFFFF) toy).regs.status = false := by decide +kernel
theorem witness_CommandWrite_issues :
    (facing (.write 0x30 0xFFFFFFFF) toy).env.inputs = .write 0x30 (0xFFFFFFFF : CmdWord).toNat :: [] ∧
      statusBusy (facing (.write 0x30 0xFFFFFFFF) toy).regs.status = false ∧
      statusFatal (facing (.write 0x30 0xFFFFFFFF) toy).regs.status = false := by decide +kernel
theorem witness_CommandWrite_fatal :
    (facing (.write 0x30 0) { toy with status := 0x76 }).env.inputs = .write 0x30 (0 : CmdWord).toNat :: [] ∧
      statusBusy (facing (.write 0x30 0) { toy with status := 0x76 }).regs.status = false ∧
      statusFatal (facing (.write 0x30 0) { toy with status := 0x76 }).regs.status = true := by decide +kernel
theorem witness_AccessesThatDoNotExist :
    0x3F < 0x40 ∧ (facing (.read 0x40) toy).env.inputs = .read 0x40 :: [] ∧
      (facing (.write 0x40 0) toy).env.inputs = .write 0x40 0 :: [] ∧ regAt 0x14 = some .inf1 ∧ 2 ^ regWidth .inf1 ≤ 2 ∧
      (facing (.write 0x14 2) toy).env.inputs = .write 0x14 2 :: [] := by decide +kernel

/-! ### Field commands -/

theorem witness_FieldCommand_result :
    let x := latched (issued 0x10 { toy with opa := 16, opb := 16 })
    x.opa.toNat < modOf x .p ∧ x.opb.toNat < modOf x .p ∧ modOf x .p = modOf x .p ∧ x.opb.toNat ≠ 0 := by decide +kernel
/-- V-F19: selectors that differ, moduli that do not. -/
theorem witness_FieldCommand_equal_moduli :
    let x := latched (issued 0x210 { toy with n := 17, opa := 3, opb := 4 })
    x.opa.toNat < modOf x .p ∧ x.opb.toNat < modOf x .n ∧ modOf x .p = modOf x .n := by decide +kernel
theorem witness_FieldCommand_range :
    let x := latched (issued 0x10 { toy with opa := 1, opb := 17 })
    ¬ (x.opa.toNat < modOf x .p ∧ x.opb.toNat < modOf x .p) := by decide +kernel
theorem witness_FieldCommand_mismatch :
    let x := latched (issued 0x110 { toy with opa := 18, opb := 16 })
    x.opa.toNat < modOf x .n ∧ x.opb.toNat < modOf x .p ∧ modOf x .n ≠ modOf x .p := by decide +kernel
theorem witness_Finv_result :
    let x := latched (issued 0x13 { toy with p := 2, opb := 1 })
    x.opb.toNat < modOf x .p ∧ x.opb.toNat ≠ 0 := by decide +kernel
theorem witness_Finv_zero :
    let x := latched (issued 0x13 { toy with p := 1, opb := 0 })
    x.opb.toNat < modOf x .p ∧ x.opb.toNat = 0 := by decide +kernel
theorem witness_Finv_range :
    let x := latched (issued 0x13 { toy with p := 0, opb := 0 })
    modOf x .p ≤ x.opb.toNat := by decide +kernel
theorem witness_Fdiv_zero :
    let x := latched (issued 0x14 { toy with opa := 0, opb := 0 })
    x.opa.toNat < modOf x .p ∧ x.opb.toNat < modOf x .p ∧ modOf x .p = modOf x .p ∧ x.opb.toNat = 0 := by decide +kernel
theorem witness_FieldLaws_modulus_one : (1 : Nat) ≤ 1 ∧ 0 < 1 := by decide
theorem witness_FieldLaws_prime : (1 : Nat) ≤ 2 ∧ 1 < 2 ∧ Nat.Prime 2 ∧ 1 ≠ 0 := by norm_num

/-! ### Curve commands -/

theorem witness_Oncurve_identity :
    let x := latched (issued 0x20 { toy with inf1 := 1, x1 := 99 })
    CurveIn x ∧ x.inf1 = 1 := by decide +kernel
theorem witness_Oncurve_on :
    let x := latched (issued 0x20 { toy with x1 := 5, y1 := 1 })
    CurveIn x ∧ x.inf1 ≠ 1 ∧ x.x1.toNat < x.p.toNat ∧ x.y1.toNat < x.p.toNat ∧
      x.y1.toNat ^ 2 % x.p.toNat = (x.x1.toNat ^ 3 + x.a.toNat * x.x1.toNat + x.b.toNat) % x.p.toNat := by decide +kernel
theorem witness_Oncurve_off :
    let x := latched (issued 0x20 { toy with x1 := 5, y1 := 2 })
    CurveIn x ∧ x.inf1 ≠ 1 ∧ x.x1.toNat < x.p.toNat ∧ x.y1.toNat < x.p.toNat ∧
      x.y1.toNat ^ 2 % x.p.toNat ≠ (x.x1.toNat ^ 3 + x.a.toNat * x.x1.toNat + x.b.toNat) % x.p.toNat := by decide +kernel
theorem witness_Oncurve_range :
    let x := latched (issued 0x20 { toy with x1 := 17, y1 := 1 })
    ¬ (CurveIn x ∧ In1 x) := by decide +kernel

/-- The hypotheses of PADD up to step 1, on two affine points. -/
def onBoth (x : Regs) (x1 y1 x2 y2 : Nat) : Prop :=
  CurveIn x ∧ In1 x ∧ In2 x ∧ held1 x = .aff x1 y1 ∧ held2 x = .aff x2 y2 ∧ OnCurve (curveOf x) (.aff x1 y1) ∧
    OnCurve (curveOf x) (.aff x2 y2)

theorem witness_Padd_range :
    let x := latched (issued 0x21 { toy with a := 17, x1 := 5, y1 := 1, x2 := 5, y2 := 1 })
    ¬ (CurveIn x ∧ In1 x ∧ In2 x) := by decide +kernel
theorem witness_Padd_off_curve :
    let x := latched (issued 0x21 { toy with inf1 := 1, x2 := 1, y2 := 1 })
    CurveIn x ∧ In1 x ∧ In2 x ∧ ¬ (OnCurve (curveOf x) (held1 x) ∧ OnCurve (curveOf x) (held2 x)) := by
  refine ⟨by decide +kernel, by decide +kernel, by decide +kernel, fun h => ?_⟩
  exact absurd (show 1 ^ 2 % 17 = (1 ^ 3 + 2 * 1 + 2) % 17 from h.2) (by decide)
theorem witness_Padd_identities :
    let x := latched (issued 0x21 { toy with inf1 := 1, inf2 := 1, x1 := 99 })
    CurveIn x ∧ In1 x ∧ In2 x ∧ OnCurve (curveOf x) (held1 x) ∧ OnCurve (curveOf x) (held2 x) ∧ held1 x = .inf ∧
      held2 x = .inf :=
  ⟨by decide +kernel, by decide +kernel, by decide +kernel, trivial, trivial, by decide +kernel, by decide +kernel⟩
/-- V-C4e: a point of order two and itself, the two tests of equal `x` meet. -/
theorem witness_Padd_inverse :
    onBoth (latched (issued 0x21 { toy with a := 16, b := 0 })) 0 0 0 0 ∧ (0 : Nat) = 0 ∧ (0 + 0) % 17 = 0 :=
  ⟨⟨by decide +kernel, by decide +kernel, by decide +kernel, by decide +kernel, by decide +kernel,
    show 0 ^ 2 % 17 = (0 ^ 3 + 16 * 0 + 0) % 17 by decide, show 0 ^ 2 % 17 = (0 ^ 3 + 16 * 0 + 0) % 17 by decide⟩,
    rfl, by decide⟩
theorem witness_Padd_doubling :
    onBoth (latched (issued 0x21 { toy with x1 := 5, y1 := 1, x2 := 5, y2 := 1 })) 5 1 5 1 ∧ (1 + 1) % 17 ≠ 0 :=
  ⟨⟨by decide +kernel, by decide +kernel, by decide +kernel, by decide +kernel, by decide +kernel,
    show 1 ^ 2 % 17 = (5 ^ 3 + 2 * 5 + 2) % 17 by decide, show 1 ^ 2 % 17 = (5 ^ 3 + 2 * 5 + 2) % 17 by decide⟩,
    by decide⟩
/-- V-C5a. -/
theorem witness_Padd_divide_by_zero :
    onBoth (latched (issued 0x21 { toy with p := 9, a := 0, b := 0, y2 := 3 })) 0 0 0 3 ∧ (0 + 3) % 9 ≠ 0 ∧
      (0 : Nat) ≠ 3 :=
  ⟨⟨by decide +kernel, by decide +kernel, by decide +kernel, by decide +kernel, by decide +kernel,
    show 0 ^ 2 % 9 = (0 ^ 3 + 0 * 0 + 0) % 9 by decide, show 3 ^ 2 % 9 = (0 ^ 3 + 0 * 0 + 0) % 9 by decide⟩,
    by decide, by decide⟩
/-- V-D3, row 1: slope 2, sum (10, 6). -/
theorem witness_Padd_chord :
    let x := latched (issued 0x21 { toy with x1 := 5, y1 := 1, x2 := 6, y2 := 3 })
    onBoth x 5 1 6 3 ∧ (5 : Nat) ≠ 6 ∧ OnCurve (curveOf x) (.aff 10 6) :=
  ⟨⟨by decide +kernel, by decide +kernel, by decide +kernel, by decide +kernel, by decide +kernel,
    show 1 ^ 2 % 17 = (5 ^ 3 + 2 * 5 + 2) % 17 by decide, show 3 ^ 2 % 17 = (6 ^ 3 + 2 * 6 + 2) % 17 by decide⟩,
    by decide, show 6 ^ 2 % 17 = (10 ^ 3 + 2 * 10 + 2) % 17 by decide⟩
/-- V-C5b: slope 2, (2, 5) off the curve. -/
theorem witness_Padd_internal :
    onBoth (latched internalNext) 0 0 2 1 ∧ (0 : Nat) ≠ 2 ∧ ¬ OnCurve (curveOf (latched internalNext)) (.aff 2 5) :=
  ⟨⟨by decide +kernel, by decide +kernel, by decide +kernel, by decide +kernel, by decide +kernel,
    show 0 ^ 2 % 9 = (0 ^ 3 + 1 * 0 + 0) % 9 by decide, show 1 ^ 2 % 9 = (2 ^ 3 + 1 * 2 + 0) % 9 by decide⟩,
    by decide, fun h => absurd (show 5 ^ 2 % 9 = (2 ^ 3 + 1 * 2 + 0) % 9 from h) (by decide)⟩

theorem witness_Pdbl_range :
    let x := latched (issued 0x22 { toy with y1 := 17 })
    ¬ (CurveIn x ∧ In1 x) := by decide +kernel
theorem witness_Pdbl_off_curve :
    let x := latched (issued 0x22 { toy with x1 := 1, y1 := 1 })
    CurveIn x ∧ In1 x ∧ ¬ OnCurve (curveOf x) (held1 x) :=
  ⟨by decide +kernel, by decide +kernel,
    fun h => absurd (show 1 ^ 2 % 17 = (1 ^ 3 + 2 * 1 + 2) % 17 from h) (by decide)⟩
theorem witness_Pdbl_identity :
    let x := latched (issued 0x22 { toy with inf1 := 1 })
    CurveIn x ∧ In1 x ∧ held1 x = .inf := by decide +kernel
theorem witness_Pdbl_order_two :
    let x := latched (issued 0x22 { toy with a := 16, b := 0 })
    CurveIn x ∧ In1 x ∧ held1 x = .aff 0 0 ∧ OnCurve (curveOf x) (.aff 0 0) ∧ 2 * 0 % x.p.toNat = 0 :=
  ⟨by decide +kernel, by decide +kernel, by decide +kernel, show 0 ^ 2 % 17 = (0 ^ 3 + 16 * 0 + 0) % 17 by decide,
    by decide +kernel⟩
theorem witness_Pdbl_tangent :
    let x := latched (issued 0x22 { toy with x1 := 5, y1 := 16 })
    CurveIn x ∧ In1 x ∧ held1 x = .aff 5 16 ∧ OnCurve (curveOf x) (.aff 5 16) ∧ 2 * 16 % x.p.toNat ≠ 0 :=
  ⟨by decide +kernel, by decide +kernel, by decide +kernel, show 16 ^ 2 % 17 = (5 ^ 3 + 2 * 5 + 2) % 17 by decide,
    by decide +kernel⟩

/-- The toy curve, and its base point on it. -/
def toyCurve : Curve := ⟨2, 2, 17⟩
theorem toy_base_on_curve : OnCurve toyCurve (.aff 5 1) := show 1 ^ 2 % 17 = (5 ^ 3 + 2 * 5 + 2) % 17 by decide

theorem witness_SmulEndsAsTheRecursion :
    let x := latched (issued 0x23 { toy with x1 := 5, y1 := 1, k := 21 })
    CurveIn x ∧ In1 x := by decide +kernel
theorem witness_PubkeyEndsAsTheRecursion :
    let x := latched (issued 0x24 { toy with d := 21 })
    CurveIn x ∧ BaseIn x := by decide +kernel
theorem witness_ScalarCommands_range :
    ¬ (CurveIn (latched (issued 0x23 { toy with x1 := 17 })) ∧ In1 (latched (issued 0x23 { toy with x1 := 17 }))) ∧
      ¬ (CurveIn (latched (issued 0x24 { toy with gy := 17 })) ∧ BaseIn (latched (issued 0x24 { toy with gy := 17 }))) := by
  decide +kernel
theorem witness_ScalarCommands_smul :
    let x := latched (issued 0x23 { toy with x1 := 5, y1 := 1, k := 1 })
    CurveIn x ∧ In1 x ∧ OnCurve (curveOf x) (held1 x) ∧ x.k = 1 :=
  ⟨by decide +kernel, by decide +kernel, toy_base_on_curve, by decide +kernel⟩
theorem witness_ScalarCommands_smul_zero :
    let x := latched (issued 0x23 { toy with inf1 := 1 })
    CurveIn x ∧ In1 x ∧ OnCurve (curveOf x) (held1 x) ∧ x.k = 0 :=
  ⟨by decide +kernel, by decide +kernel, trivial, by decide +kernel⟩
theorem witness_ScalarCommands_pubkey :
    let x := latched (issued 0x24 { toy with d := 1 })
    CurveIn x ∧ BaseIn x ∧ OnCurve (curveOf x) (baseOf x) ∧ x.d = 1 :=
  ⟨by decide +kernel, by decide +kernel, toy_base_on_curve, by decide +kernel⟩
theorem witness_ScalarCommands_pubkey_zero :
    let x := latched (issued 0x24 toy)
    CurveIn x ∧ BaseIn x ∧ OnCurve (curveOf x) (baseOf x) ∧ x.d = 0 :=
  ⟨by decide +kernel, by decide +kernel, toy_base_on_curve, by decide +kernel⟩
theorem witness_CurveLaws :
    toyCurve.p.Prime ∧ toyCurve.a < toyCurve.p ∧ toyCurve.b < toyCurve.p ∧ Reduced toyCurve.p (.aff 5 1) ∧
      Reduced toyCurve.p (.aff 6 3) ∧ onCurve toyCurve (.aff 5 1) = true ∧
      padd toyCurve (.aff 5 1) (.aff 6 3) = .ok (.aff 10 6) ∧ pdbl toyCurve (.aff 5 1) = .ok (.aff 6 3) ∧
      smul toyCurve (.aff 5 1) 9 = .ok (.aff 7 6) :=
  ⟨show Nat.Prime 17 by norm_num, by decide, by decide, show 5 < 17 ∧ 1 < 17 by decide, show 6 < 17 ∧ 3 < 17 by decide,
    by decide +kernel, by decide +kernel, by decide +kernel, by decide +kernel⟩

theorem prime_seventeen : Fact (Nat.Prime 17) := ⟨by norm_num⟩
theorem toy_base_nonsingular :
    (weierstrass toyCurve).Nonsingular ((5 : Nat) : ZMod toyCurve.p) ((1 : Nat) : ZMod toyCurve.p) := by
  have he : (1 ^ 2 + 0 * 5 * 1 + 0 * 1 : ZMod 17) = 5 ^ 3 + 0 * 5 ^ 2 + 2 * 5 + 2 := by decide
  have hn : (1 : ZMod 17) ≠ -1 - 0 * 5 - 0 := by decide
  exact (WeierstrassCurve.Affine.nonsingular_iff ..).mpr ⟨(WeierstrassCurve.Affine.equation_iff ..).mpr he, .inr hn⟩
theorem toy_base_denotes : Denotes toyCurve (.aff 5 1) (.some _ _ toy_base_nonsingular) :=
  .aff (by decide) (by decide) toy_base_nonsingular
theorem witness_SmulIsTheGroupMultiple :
    ∃ (_ : Fact toyCurve.p.Prime) (g : (weierstrass toyCurve).Point), toyCurve.a < toyCurve.p ∧
      toyCurve.b < toyCurve.p ∧ Denotes toyCurve (.aff 5 1) g ∧ smul toyCurve (.aff 5 1) 19 = .ok .inf :=
  ⟨prime_seventeen, _, by decide, by decide, toy_base_denotes, by decide +kernel⟩
/-- `y^2 = x^3 + 1 mod 17`, on which (0, 1) has order three. -/
def cubicCurve : Curve := ⟨0, 1, 17⟩
theorem order_three_nonsingular :
    (weierstrass cubicCurve).Nonsingular ((0 : Nat) : ZMod cubicCurve.p) ((1 : Nat) : ZMod cubicCurve.p) := by
  have he : (1 ^ 2 + 0 * 0 * 1 + 0 * 1 : ZMod 17) = 0 ^ 3 + 0 * 0 ^ 2 + 0 * 0 + 1 := by decide
  have hn : (1 : ZMod 17) ≠ -1 - 0 * 0 - 0 := by decide
  exact (WeierstrassCurve.Affine.nonsingular_iff ..).mpr ⟨(WeierstrassCurve.Affine.equation_iff ..).mpr he, .inr hn⟩
/-- On `y^2 = x^3 + b` the points with `x = 0` have order three. -/
theorem triple_of_x_zero {F : Type} [Field F] [DecidableEq F] (W : WeierstrassCurve.Affine F)
    (hw : W.a₁ = 0 ∧ W.a₂ = 0 ∧ W.a₃ = 0 ∧ W.a₄ = 0) {x y : F} (hx : x = 0) (hy : y ≠ -y) (h : W.Nonsingular x y) :
    3 • WeierstrassCurve.Affine.Point.some x y h = 0 := by
  obtain ⟨h1, h2, h3, h4⟩ := hw
  subst hx
  have hy' : y ≠ W.negY 0 y := by simpa [WeierstrassCurve.Affine.negY, h1, h3] using hy
  have hs : W.slope 0 0 y y = 0 := by simp [WeierstrassCurve.Affine.slope_of_Y_ne rfl hy', h1, h4]
  have hd : WeierstrassCurve.Affine.Point.some 0 y h + .some 0 y h = -.some 0 y h := by
    rw [WeierstrassCurve.Affine.Point.add_self_of_Y_ne hy', WeierstrassCurve.Affine.Point.neg_some]
    simp [hs, h1, h2, h3, WeierstrassCurve.Affine.addX, WeierstrassCurve.Affine.addY,
      WeierstrassCurve.Affine.negAddY, WeierstrassCurve.Affine.negY]
  rw [show (3 : Nat) = 2 + 1 from rfl, add_smul, two_smul, one_smul, hd]
  exact neg_add_cancel _
theorem order_three_multiple :
    ∃ _ : Fact cubicCurve.p.Prime,
    3 • (WeierstrassCurve.Affine.Point.some _ _ order_three_nonsingular : (weierstrass cubicCurve).Point) = 0 :=
  ⟨prime_seventeen, @triple_of_x_zero _ (@ZMod.instField 17 prime_seventeen) _ (weierstrass cubicCurve)
    ⟨rfl, rfl, rfl, rfl⟩ _ _ rfl (show (1 : ZMod 17) ≠ -1 by decide) order_three_nonsingular⟩

/-- The context of that curve and point. -/
def cubic : Regs := { toy with a := 0, b := 1, gx := 0, gy := 1 }

theorem witness_ScalarCommandsGiveTheMultiple :
    let x := latched (issued 0x23 { cubic with x1 := 0, y1 := 1, k := 4, d := 4 })
    ∃ (_ : Fact (curveOf x).p.Prime) (g : (weierstrass (curveOf x)).Point), CurveIn x ∧ Nat.Prime 3 ∧ 3 ≠ 2 ∧ g ≠ 0 ∧
      3 • g = 0 ∧ In1 x ∧ Denotes (curveOf x) (held1 x) g ∧ x.k.toNat ≤ 3 + 1 ∧ BaseIn x ∧
      Denotes (curveOf x) (baseOf x) g ∧ x.d.toNat ≤ 3 + 1 :=
  ⟨prime_seventeen, .some _ _ order_three_nonsingular, by decide +kernel, by norm_num, by decide,
    WeierstrassCurve.Affine.Point.some_ne_zero _, order_three_multiple.2, by decide +kernel,
    .aff (by decide) (by decide) order_three_nonsingular, by decide +kernel, by decide +kernel,
    .aff (by decide) (by decide) order_three_nonsingular, by decide +kernel⟩

/-! ### ECDSA commands -/

/-- The recursion's end at computed arguments, from its end at the numerals they evaluate to. -/
theorem ends_at {c c' : Curve} {pt pt' : Point} {k k' : Nat} {out : Result Point} (h : SmulEnds c pt k out)
    (hc : c' = c) (hp : pt' = pt) (hk : k' = k) : SmulEnds c' pt' k' out := hc ▸ hp ▸ hk ▸ h

theorem order_three_on_curve : OnCurve cubicCurve (.aff 0 1) := show 1 ^ 2 % 17 = (0 ^ 3 + 0 * 0 + 1) % 17 by decide
theorem order_three_ends : SmulEnds cubicCurve (.aff 0 1) 3 (.ok .inf) := by
  have h2 : SmulEnds cubicCurve (.aff 0 1) 2 (.ok (.aff 0 16)) :=
    .even (d := .aff 0 16) order_three_on_curve (by decide) (by decide) (by decide +kernel)
      (.one (show 16 ^ 2 % 17 = (0 ^ 3 + 0 * 0 + 1) % 17 by decide))
  have h3 := SmulEnds.odd (k := 3) order_three_on_curve (by decide) (by decide) h2
  rwa [show padd cubicCurve (.aff 0 1) (.aff 0 16) = .ok .inf by decide +kernel] at h3
theorem bad_base_ends (k : Nat) : SmulEnds ⟨2, 2, 17⟩ (.aff 5 2) k (.error .offCurve) :=
  .offCurve fun h => absurd (show 2 ^ 2 % 17 = (5 ^ 3 + 2 * 5 + 2) % 17 from h) (by decide)

theorem witness_Keygen_range : ¬ DrawIn (latched (issued 0x30 { toy with n := 1 })) := by decide +kernel
theorem witness_Keygen_failure :
    let s := issued 0x30 { toy with n := 2 } [.failure]
    DrawIn (latched s) ∧ s.env.rng = .failure :: [] := by decide +kernel
theorem witness_Keygen_rejection :
    let s := issued 0x30 toy [.value 0, .value 3]
    DrawIn (latched s) ∧ s.env.rng = .value 0 :: [.value 3] := by decide +kernel
theorem witness_Keygen_point :
    let s := issued 0x30 toy [.value 1]
    DrawIn (latched s) ∧ s.env.rng = .value 1 :: [] ∧ 1 ≤ 1 ∧ 1 < (latched s).n.toNat ∧
      SmulEnds (curveOf (latched s)) (baseOf (latched s)) 1 (.ok (.aff 5 1)) :=
  ⟨by decide +kernel, by decide +kernel, by decide, by decide +kernel,
    ends_at (.one toy_base_on_curve) (by decide +kernel) (by decide +kernel) (by decide +kernel)⟩
theorem witness_Keygen_identity :
    let s := issued 0x30 { cubic with n := 4 } [.value 3]
    DrawIn (latched s) ∧ s.env.rng = .value 3 :: [] ∧ 1 ≤ 3 ∧ 3 < (latched s).n.toNat ∧
      SmulEnds (curveOf (latched s)) (baseOf (latched s)) 3 (.ok .inf) :=
  ⟨by decide +kernel, by decide +kernel, by decide, by decide +kernel,
    ends_at order_three_ends (by decide +kernel) (by decide +kernel) (by decide +kernel)⟩
theorem witness_Keygen_error :
    let s := issued 0x30 { toy with gy := 2 } [.value 7]
    DrawIn (latched s) ∧ s.env.rng = .value 7 :: [] ∧ 1 ≤ 7 ∧ 7 < (latched s).n.toNat ∧
      SmulEnds (curveOf (latched s)) (baseOf (latched s)) 7 (.error .offCurve) :=
  ⟨by decide +kernel, by decide +kernel, by decide, by decide +kernel,
    ends_at (bad_base_ends 7) (by decide +kernel) (by decide +kernel) (by decide +kernel)⟩
theorem witness_Sign_identity :
    let s := issued 0x31 { cubic with n := 4 } [.value 3]
    DrawIn (latched s) ∧ s.env.rng = .value 3 :: [] ∧ 1 ≤ 3 ∧ 3 < (latched s).n.toNat ∧
      SmulEnds (curveOf (latched s)) (baseOf (latched s)) 3 (.ok .inf) :=
  ⟨by decide +kernel, by decide +kernel, by decide, by decide +kernel,
    ends_at order_three_ends (by decide +kernel) (by decide +kernel) (by decide +kernel)⟩
theorem witness_Sign_error :
    let s := issued 0x31 { toy with gy := 2 } [.value 7]
    DrawIn (latched s) ∧ s.env.rng = .value 7 :: [] ∧ 1 ≤ 7 ∧ 7 < (latched s).n.toNat ∧
      SmulEnds (curveOf (latched s)) (baseOf (latched s)) 7 (.error .offCurve) :=
  ⟨by decide +kernel, by decide +kernel, by decide, by decide +kernel,
    ends_at (bad_base_ends 7) (by decide +kernel) (by decide +kernel) (by decide +kernel)⟩
/-- The nonce 1, digest 0 and key 1: `r = 5`, `s = 5`. -/
theorem witness_Sign_signature :
    let s := issued 0x31 { toy with d := 1 } [.value 1]
    let n := (latched s).n.toNat
    DrawIn (latched s) ∧ s.env.rng = .value 1 :: [] ∧ 1 ≤ 1 ∧ 1 < n ∧
      SmulEnds (curveOf (latched s)) (baseOf (latched s)) 1 (.ok (.aff 5 1)) ∧ 5 % n ≠ 0 ∧
      ((latched s).e.toNat % n + 5 % n * ((latched s).d.toNat % n) % n) % n * (1 ^ (n - 2) % n) % n ≠ 0 :=
  ⟨by decide +kernel, by decide +kernel, by decide, by decide +kernel,
    ends_at (.one toy_base_on_curve) (by decide +kernel) (by decide +kernel) (by decide +kernel), by decide +kernel, by decide +kernel⟩
/-- The same with key 0: `s = 0`. -/
theorem witness_Sign_zero :
    let s := issued 0x31 toy [.value 1]
    let n := (latched s).n.toNat
    DrawIn (latched s) ∧ s.env.rng = .value 1 :: [] ∧ 1 ≤ 1 ∧ 1 < n ∧
      SmulEnds (curveOf (latched s)) (baseOf (latched s)) 1 (.ok (.aff 5 1)) ∧
      (5 % n = 0 ∨
        ((latched s).e.toNat % n + 5 % n * ((latched s).d.toNat % n) % n) % n * (1 ^ (n - 2) % n) % n = 0) :=
  ⟨by decide +kernel, by decide +kernel, by decide, by decide +kernel,
    ends_at (.one toy_base_on_curve) (by decide +kernel) (by decide +kernel) (by decide +kernel), by decide +kernel⟩
theorem witness_KeygenMakesAKeyPair :
    let s := issued 0x30 { cubic with n := 3 } [.value 2]
    let x := latched s
    ∃ (_ : Fact (curveOf x).p.Prime) (g : (weierstrass (curveOf x)).Point), CurveIn x ∧ BaseIn x ∧
      Denotes (curveOf x) (baseOf x) g ∧ g ≠ 0 ∧ x.n.toNat.Prime ∧ x.n.toNat ≠ 2 ∧ 3 • g = 0 ∧ x.n.toNat = 3 ∧
      s.env.rng = .value 2 :: [] ∧ 1 ≤ 2 ∧ 2 < x.n.toNat :=
  ⟨prime_seventeen, .some _ _ order_three_nonsingular, by decide +kernel, by decide +kernel,
    .aff (by decide) (by decide) order_three_nonsingular, WeierstrassCurve.Affine.Point.some_ne_zero _,
    show Nat.Prime 3 by norm_num, by decide +kernel, order_three_multiple.2, by decide +kernel, by decide +kernel,
    by decide, by decide +kernel⟩
theorem witness_ListedAnswers :
    let s := issued 0x31 { toy with n := 2 } [.value 3]
    DrawIn (latched s) ∧ s.env.rng = .value 3 :: [] := by decide +kernel
theorem witness_FreeDraw :
    DrawIn (latched (issued 0x31 { toy with n := 2 })) ∧ (issued 0x31 { toy with n := 2 }).env.rng = [] := by
  decide +kernel

/-- Modulo 2 the inverse of `S = 1` is 1, so `u1 = E` and `u2 = R`: both scalars are 1. -/
def unitSignature (qx qy : Word) : Regs :=
  latched (issued 0x32 { toy with n := 2, e := 1, r := 1, s := 1, x2 := qx, y2 := qy })
theorem unit_scalars : 1 % 2 * (1 ^ (2 - 2) % 2) % 2 = 1 := by decide

theorem witness_Verify_range :
    ¬ VerifyIn (latched (issued 0x32 { toy with r := 19 })) ∧ ¬ VerifyIn (latched (issued 0x32 { toy with n := 0 })) := by
  decide +kernel
theorem witness_Verify_identity :
    let x := latched (issued 0x32 { toy with inf2 := 1 })
    VerifyIn x ∧ held2 x = .inf := by decide +kernel
theorem witness_Verify_zero :
    let x := latched (issued 0x32 { toy with r := 18, x2 := 0, y2 := 6 })
    VerifyIn x ∧ held2 x ≠ .inf ∧ x.s = 0 := by decide +kernel
theorem witness_Verify_bad_base :
    let x := latched (issued 0x32 { toy with gy := 2, s := 1, x2 := 0, y2 := 6 })
    VerifyIn x ∧ held2 x ≠ .inf ∧ x.s ≠ 0 ∧ SmulEnds (curveOf x) (baseOf x) 0 (.error .offCurve) ∧
      x.e.toNat % x.n.toNat * (x.s.toNat ^ (x.n.toNat - 2) % x.n.toNat) % x.n.toNat = 0 :=
  ⟨by decide +kernel, by decide +kernel, by decide +kernel,
    ends_at (bad_base_ends 0) (by decide +kernel) (by decide +kernel) (by decide +kernel), by decide +kernel⟩
theorem witness_Verify_bad_key :
    let x := latched (issued 0x32 { toy with s := 1, x2 := 5, y2 := 2 })
    VerifyIn x ∧ held2 x ≠ .inf ∧ x.s ≠ 0 ∧ SmulEnds (curveOf x) (baseOf x) 0 (.ok .inf) ∧
      SmulEnds (curveOf x) (held2 x) 0 (.error .offCurve) ∧
      x.e.toNat % x.n.toNat * (x.s.toNat ^ (x.n.toNat - 2) % x.n.toNat) % x.n.toNat = 0 ∧
      x.r.toNat * (x.s.toNat ^ (x.n.toNat - 2) % x.n.toNat) % x.n.toNat = 0 :=
  ⟨by decide +kernel, by decide +kernel, by decide +kernel,
    ends_at (.zero toy_base_on_curve) (by decide +kernel) (by decide +kernel) (by decide +kernel),
    ends_at (bad_base_ends 0) (by decide +kernel) (by decide +kernel) (by decide +kernel),
    by decide +kernel, by decide +kernel⟩
theorem witness_Verify_sums :
    (VerifyIn (unitSignature 5 1) ∧ held2 (unitSignature 5 1) = .aff 5 1 ∧ (unitSignature 5 1).s ≠ 0) ∧
    (VerifyIn (unitSignature 3 1) ∧ held2 (unitSignature 3 1) = .aff 3 1) ∧
    SmulEnds toyCurve (.aff 5 1) 1 (.ok (.aff 5 1)) ∧
    padd toyCurve (.aff 5 1) (.aff 5 1) = .error .invalidPoint ∧ padd toyCurve (.aff 5 1) (.aff 5 16) = .ok .inf ∧
    padd toyCurve (.aff 5 1) (.aff 3 1) = .ok (.aff 9 16) ∧ 9 % 2 = 1 ∧
    padd toyCurve (.aff 5 1) (.aff 6 3) = .ok (.aff 10 6) ∧ 10 % 2 ≠ 1 :=
  ⟨by decide +kernel, by decide +kernel, .one toy_base_on_curve, by decide +kernel, by decide +kernel,
    by decide +kernel, by decide, by decide +kernel, by decide⟩
theorem witness_Verify_keys_end :
    SmulEnds toyCurve (.aff 5 16) 1 (.ok (.aff 5 16)) ∧ SmulEnds toyCurve (.aff 3 1) 1 (.ok (.aff 3 1)) ∧
      SmulEnds toyCurve (.aff 6 3) 1 (.ok (.aff 6 3)) :=
  ⟨.one (show 16 ^ 2 % 17 = (5 ^ 3 + 2 * 5 + 2) % 17 by decide),
    .one (show 1 ^ 2 % 17 = (3 ^ 3 + 2 * 3 + 2) % 17 by decide),
    .one (show 3 ^ 2 % 17 = (6 ^ 3 + 2 * 6 + 2) % 17 by decide)⟩

/-- V-E1 (the signature) and V-E5 (the doubling case `e = r*d`). -/
theorem witness_Signatures :
    Nat.Prime 17 ∧ (4 * 2 ^ 3 + 27 * 2 ^ 2) % 17 ≠ 0 ∧ Nat.Prime 19 ∧ smul toyCurve (.aff 5 1) 19 = .ok .inf ∧
      smul toyCurve (.aff 5 1) 7 = .ok (.aff 0 6) ∧
      signCore ⟨toyCurve, .aff 5 1, 19⟩ 26 7 10 = .ok (7, 17) ∧ 26 % 19 ≠ 7 * 7 % 19 ∧
      signCore ⟨toyCurve, .aff 5 1, 19⟩ 4 7 2 = .ok (6, 4) ∧ 4 % 19 = 6 * 7 % 19 :=
  ⟨by norm_num, by decide, by norm_num, by decide +kernel, by decide +kernel, by decide +kernel, by decide,
    by decide +kernel, by decide⟩

/-! ### All commands -/

/-- V-C2c: PADD of a point and itself. -/
def doublingNext : State := issued 0x21 { toy with x1 := 5, y1 := 1, x2 := 5, y2 := 1 }

theorem witness_ErrorCompletion : ∃ t, exec .padd doublingNext = .next t ∧ statusErr t.regs.status ≠ 0 :=
  ⟨_, rfl, by decide +kernel⟩
theorem witness_OperandRange :
    ∃ t, exec .oncurve (issued 0x20 { toy with x1 := 17 }) = .next t ∧
      ¬ RangeOk (latched (issued 0x20 { toy with x1 := 17 })) .oncurve :=
  ⟨_, rfl, show ¬ (CurveIn _ ∧ In1 _) by decide +kernel⟩
theorem witness_CommandsEndWithTheirKinds :
    ∃ t, exec .padd doublingNext = .next t ∧ (latched doublingNext).p.toNat.Prime :=
  ⟨_, rfl, show Nat.Prime 17 by norm_num⟩
theorem witness_PrimeModulus :
    ∃ t, (latched doublingNext).p.toNat.Prime ∧ statusFatal doublingNext.regs.status = false ∧
      step doublingNext = .next t := ⟨_, show Nat.Prime 17 by norm_num, by decide +kernel, rfl⟩
theorem witness_CommandsWriteOnlyTheirResults :
    ∃ t, exec .keygen (issued 0x30 toy [.value 7]) = .next t ∧ RegName.flag ∉ writesOf .keygen ∧
      RegName.flag ≠ .status := ⟨_, rfl, by decide, by decide⟩
theorem witness_OutcomeDepends :
    (busyFacing [] toy).phase = .busy 0x12 { toy with cmd := 0x12 } ∧
      ∀ reg ∈ readsOf .smul, readReg { toy with cmd := 0x12 } reg = readReg { toy with n := 5, d := 1, status := 7 } reg := by
  decide +kernel
theorem witness_CoordinatesUnderATag :
    let snap := { toy with inf1 := 1, inf2 := 1, cmd := 0x12 }
    (busyFacing [] { toy with inf1 := 1, inf2 := 1 }).phase = .busy 0x12 snap ∧ snap.inf1 = 1 ∧ snap.inf2 = 1 := by
  decide +kernel
theorem witness_OnlyKeygenAndSignDraw :
    ∃ t, exec .verify doublingNext = .next t ∧ Instr.verify ≠ .keygen ∧ Instr.verify ≠ .sign :=
  ⟨_, rfl, by decide, by decide⟩

end Sys2Proof.Tests
end

section
/-! SUPPORT. The port numbers and the registers name each other (spec/10_state.md R22), and `registerTable` is the
register map written out. -/

namespace Sys2Proof.Machine

theorem mem_allRegs (reg : RegName) : reg ∈ allRegs := by cases reg <;> decide

@[simp] theorem regAt_regNumber (reg : RegName) : regAt (regNumber reg) = some reg := by cases reg <;> rfl

theorem regNumber_of_regAt {num : Nat} {reg : RegName} (h : regAt num = some reg) : regNumber reg = num := by
  simpa using List.find?_some h

theorem regAt_eq_some_iff {num : Nat} {reg : RegName} : regAt num = some reg ↔ regNumber reg = num :=
  ⟨regNumber_of_regAt, fun h => h ▸ regAt_regNumber reg⟩

theorem regAt_eq_none_iff {num : Nat} : regAt num = none ↔ ∀ reg, regNumber reg ≠ num := by
  simp [Option.eq_none_iff_forall_ne_some, regAt_eq_some_iff]

end Sys2Proof.Machine

namespace Sys2Proof.Spec
open Sys2Proof.Machine

/-- The row of R22 for a register, as the register map of the model gives it. -/
def registerRow (reg : RegName) : Nat × RegName × Nat × Bool := (regNumber reg, reg, regWidth reg, regWritable reg)

theorem registerTable_eq_map : registerTable = allRegs.map registerRow := by decide

theorem mem_registerTable_iff {entry : Nat × RegName × Nat × Bool} :
    entry ∈ registerTable ↔ ∃ reg, registerRow reg = entry := by
  simp [registerTable_eq_map, mem_allRegs]

end Sys2Proof.Spec
end

section
/-! The obligations about the register map and the state after reset (spec/10_state.md R22, R33). -/

namespace Sys2Proof.Proofs
open Sys2Proof.Machine Sys2Proof.Spec

/-- R33: outside the curve context every register is 0 after reset. -/
theorem readReg_reset_eq_zero {reg : RegName} (h : reg ∉ [RegName.p, .a, .b, .gx, .gy, .n]) :
    readReg Regs.reset reg = 0 := by
  cases reg
  case p | a | b | gx | gy | n => simp at h
  all_goals rfl

/-- Settles O7: the six context registers hold the preset, and the others are 0 by `readReg_reset_eq_zero`. -/
theorem resetGivesTheResetValues : Obligations.ResetGivesTheResetValues :=
  ⟨rfl, rfl, rfl, rfl, rfl, rfl, fun _ => readReg_reset_eq_zero, rfl⟩

/-- Settles O16: the table has one row per register and no other row, and a number is mapped exactly when it is the
number of a register. -/
theorem registerMapIsTheTable : Obligations.RegisterMapIsTheTable := by
  refine ⟨fun num reg width writable hrow => ?_, fun num hfree => ?_⟩
  · obtain ⟨reg', hrow⟩ := mem_registerTable_iff.mp hrow
    cases hrow
    exact ⟨regAt_regNumber _, rfl, rfl⟩
  · exact regAt_eq_none_iff.mpr fun reg => hfree _ (mem_registerTable_iff.mpr ⟨reg, rfl⟩)

end Sys2Proof.Proofs
end

section
/-! SUPPORT. What a host read and a host write do, one equation per case of their rules (spec/20_memory.md R62 to R66),
and the step that carries one. -/

namespace Sys2Proof.Machine

theorem readReg_lt (x : Regs) (reg : RegName) : readReg x reg < 2 ^ regWidth reg := by
  cases reg <;> exact BitVec.isLt _

theorem busyReadValue_lt (reg : RegName) (s : State) : busyReadValue reg s < 2 ^ regWidth reg :=
  Nat.mod_lt _ (Nat.two_pow_pos _)

/-- R65: the registers that R22 gives the host no right to write. -/
theorem regWritable_eq_false_iff {reg : RegName} :
    regWritable reg = false ↔ reg ∈ [RegName.res, .rx, .ry, .rinf, .flag, .status] := by
  cases reg <;> decide

theorem fitsRegister_of_unmapped {num : Nat} (v : Nat) (h : regAt num = none) : fitsRegister num v = true := by
  simp [fitsRegister, h]

theorem fitsRegister_of_lt {num v : Nat} {reg : RegName} (h : regAt num = some reg) (hv : v < 2 ^ regWidth reg) :
    fitsRegister num v = true := by
  simp [fitsRegister, h, hv]

/-! ### Reads -/

/-- A host read answers 0 for an unmapped number, the register where it is readable now (`STATUS` always, the others
while no command is in progress), and the free value otherwise (R62, R66). -/
theorem hostRead_cases (num : Nat) (s : State) :
    (regAt num = none ∧ hostRead num s = answerRead 0 s) ∨
    (∃ reg, regAt num = some reg ∧ hostRead num s = answerRead (readReg s.regs reg) s) ∨
    (∃ reg, regAt num = some reg ∧ reg ≠ .status ∧ statusBusy s.regs.status = true ∧ hostRead num s =
      answerRead (busyReadValue reg s) { s with env := { s.env with busyReads := s.env.busyReads + 1 } }) := by
  unfold hostRead
  split
  case h_1 hreg => exact .inl ⟨hreg, rfl⟩
  case h_2 hreg => exact .inr (.inl ⟨.status, hreg, rfl⟩)
  case h_3 reg hstatus hreg =>
    split
    case isTrue hbusy => exact .inr (.inr ⟨reg, hreg, hstatus, hbusy, rfl⟩)
    case isFalse => exact .inr (.inl ⟨reg, hreg, rfl⟩)

@[simp] theorem hostRead_rng (num : Nat) (s : State) : (hostRead num s).env.rng = s.env.rng := by
  obtain ⟨-, h⟩ | ⟨_, -, h⟩ | ⟨_, -, -, -, h⟩ := hostRead_cases num s <;> rw [h] <;> rfl

@[simp] theorem hostRead_draws (num : Nat) (s : State) : (hostRead num s).env.draws = s.env.draws := by
  obtain ⟨-, h⟩ | ⟨_, -, h⟩ | ⟨_, -, -, -, h⟩ := hostRead_cases num s <;> rw [h] <;> rfl

/-- The one value a host read puts on the port (R62, R66). -/
theorem hostRead_reads (num : Nat) (s : State) : ∃ v, (hostRead num s).env.reads = v :: s.env.reads ∧
    (regAt num = none → v = 0) ∧
    (∀ reg, regAt num = some reg → v < 2 ^ regWidth reg ∧
      (reg = .status ∨ statusBusy s.regs.status = false → v = readReg s.regs reg)) := by
  obtain ⟨hnone, h⟩ | ⟨reg, hreg, h⟩ | ⟨reg, hreg, hstatus, hbusy, h⟩ := hostRead_cases num s
  · exact ⟨0, by rw [h]; rfl, fun _ => rfl, by simp [hnone]⟩
  · exact ⟨readReg s.regs reg, by rw [h]; rfl, by simp [hreg], by simp [hreg, readReg_lt]⟩
  · exact ⟨busyReadValue reg s, by rw [h]; rfl, by simp [hreg], by simp [hreg, busyReadValue_lt, hstatus, hbusy]⟩

theorem step_read {s : State} {num : Nat} {rest : List Event} (hnum : num ≤ 0x3F)
    (hin : s.env.inputs = .read num :: rest) : step s = .next (hostRead num (withInputs rest s)) := by
  simp [step, hin, takeEvent, portRead, onPort, hnum]

/-! ### Writes -/

theorem hostWrite_of_unmapped {num : Nat} (v : Nat) (s : State) (h : regAt num = none) : hostWrite num v s = s := by
  simp [hostWrite, h]

theorem hostWrite_of_busy (num v : Nat) {s : State} (h : statusBusy s.regs.status = true) : hostWrite num v s = s := by
  unfold hostWrite
  split <;> simp [h]

theorem hostWrite_of_readOnly {num : Nat} {reg : RegName} (v : Nat) (s : State) (hreg : regAt num = some reg)
    (h : regWritable reg = false) : hostWrite num v s = s := by
  simp [hostWrite, hreg, h]

theorem hostWrite_cmd (v : Nat) {s : State} (h : statusBusy s.regs.status = false) :
    hostWrite 0x30 v s = issue (BitVec.ofNat 32 v) s := by
  simp [hostWrite, show regAt 0x30 = some .cmd from rfl, h, regWritable]

theorem hostWrite_of_writable {num : Nat} {reg : RegName} (v : Nat) {s : State} (hreg : regAt num = some reg)
    (hbusy : statusBusy s.regs.status = false) (hw : regWritable reg = true) (hcmd : reg ≠ .cmd) :
    hostWrite num v s = { s with regs := writeReg s.regs v reg } := by
  simp [hostWrite, hreg, hbusy, hw, hcmd]

theorem step_write {s : State} {num v : Nat} {rest : List Event} (hnum : num ≤ 0x3F) (hfit : fitsRegister num v = true)
    (hin : s.env.inputs = .write num v :: rest) : step s = .next (hostWrite num v (withInputs rest s)) := by
  simp [step, hin, takeEvent, portWrite, onPort, hnum, hfit]

/-- R64: a word the host writes to `CMD` while no command is in progress is issued, whatever it is. -/
theorem step_write_cmd {s : State} {v : Nat} {rest : List Event} (hv : v < 2 ^ 32)
    (hin : s.env.inputs = .write 0x30 v :: rest) (hbusy : statusBusy s.regs.status = false) :
    step s = .next (issue (BitVec.ofNat 32 v) (withInputs rest s)) := by
  rw [step_write (by decide) (fitsRegister_of_lt (reg := .cmd) rfl hv) hin, hostWrite_cmd v (by simpa using hbusy)]

theorem issue_of_fatal (w : CmdWord) {s : State} (h : statusFatal s.regs.status = true) : issue w s = s := by
  simp [issue, h]

theorem issue_of_not_fatal (w : CmdWord) {s : State} (h : statusFatal s.regs.status = false) :
    issue w s = latchCommand w s := by
  simp [issue, h]

end Sys2Proof.Machine
end

section
/-! SUPPORT. Reading bytes most significant first is the sum of their weights (spec/20_memory.md R67). -/

namespace Sys2Proof.Machine

/-- R67's sum for any number of bytes, on top of what the bytes before them gave. -/
theorem foldl_bytes_eq_sum {n : Nat} (f : Fin n → Byte) (acc : Nat) :
    (List.ofFn f).foldl (fun acc byte => 256 * acc + byte.toNat) acc =
      acc * 256 ^ n + ∑ i : Fin n, (f i).toNat * 256 ^ (n - 1 - i.val) := by
  induction n generalizing acc with
  | zero => simp
  | succ n ih =>
    have hexp (i : Fin n) : n - (i.val + 1) = n - 1 - i.val := by omega
    simp only [List.ofFn_succ, List.foldl_cons, ih, Fin.sum_univ_succ, Nat.add_sub_cancel, Fin.val_zero, Nat.sub_zero,
      Fin.val_succ, hexp]
    ring

end Sys2Proof.Machine
end

section
/-! The obligations about the host port and the digest's byte order (spec/20_memory.md R62 to R67). -/

namespace Sys2Proof.Proofs
open Sys2Proof.Machine Sys2Proof.Spec

/-- Settles O17: the step is `hostRead`, whose frame and whose answer are lemmas of their own. -/
theorem hostReadAnswersAndChangesNothing : Obligations.HostReadAnswersAndChangesNothing := by
  intro s num rest hnum hin
  obtain ⟨v, hreads, hunmapped, hmapped⟩ := hostRead_reads num (withInputs rest s)
  refine ⟨_, v, step_read hnum hin, by simp, by simp, by simp, by simp, by simp, by simpa using hreads, hunmapped,
    ?_, fun reg hreg => (hmapped reg hreg).1, fun reg hreg hbusy => (hmapped reg hreg).2 (.inr hbusy)⟩
  rintro rfl
  exact (hmapped .status rfl).2 (.inl rfl)

/-- Settles O18: the step is `hostWrite`, and each clause is one of its equations. -/
theorem hostWriteSetsOneRegisterOrNothing : Obligations.HostWriteSetsOneRegisterOrNothing := by
  intro s num v rest hnum hin
  refine ⟨fun hreg => ?unmapped, fun reg hreg hv hbusy => ?busy, fun reg hreg hv hro => ?readOnly,
    ?command, fun reg hreg hv hbusy hother => ?oneRegister⟩
  case unmapped => rw [step_write hnum (fitsRegister_of_unmapped v hreg) hin, hostWrite_of_unmapped v _ hreg]
  case busy => rw [step_write hnum (fitsRegister_of_lt hreg hv) hin, hostWrite_of_busy num v (by simpa using hbusy)]
  case readOnly =>
    rw [step_write hnum (fitsRegister_of_lt hreg hv) hin,
      hostWrite_of_readOnly v _ hreg (regWritable_eq_false_iff.mpr hro)]
  case command =>
    rintro rfl hv hbusy
    exact step_write_cmd hv hin hbusy
  case oneRegister =>
    have hcmd : reg ≠ .cmd := fun h => hother (by simp [h])
    have hw : regWritable reg = true := by
      refine Bool.of_not_eq_false fun h => hother ?_
      exact List.mem_append_left [RegName.cmd] (regWritable_eq_false_iff.mp h)
    refine ⟨writeReg s.regs v reg, ?_, readReg_writeReg_same reg v s.regs hv,
      fun other hne => readReg_writeReg_other v s.regs hne⟩
    rw [step_write hnum (fitsRegister_of_lt hreg hv) hin, hostWrite_of_writable v hreg (by simpa using hbusy) hw hcmd]
    rfl

/-- Settles O19: the word written is the word issued, with the two cases of `issue`. -/
theorem commandWriteIssues : Obligations.CommandWriteIssues := by
  intro s w rest hin hbusy
  have hstep : step s = .next (issue w (withInputs rest s)) := by
    simpa using step_write_cmd w.isLt hin hbusy
  refine ⟨fun hfatal => ?_, fun hfatal => ?_⟩
  · rw [hstep, issue_of_fatal w (by simpa using hfatal)]
  · rw [hstep, issue_of_not_fatal w (by simpa using hfatal)]
    rfl

/-- Settles O21: the digest's list is its 32 bytes in order, read from 0. -/
theorem digestIsBigEndian : Obligations.DigestIsBigEndian := by
  intro h
  have hlist : h.toList = List.ofFn fun i : Fin 32 => h[i] :=
    List.ext_getElem (by simp) fun i _ _ => by rw [Vector.getElem_toList, List.getElem_ofFn]; rfl
  rw [digestNumber, hlist, foldl_bytes_eq_sum, Nat.zero_mul, Nat.zero_add]

end Sys2Proof.Proofs
end

section
/-! SUPPORT. A word that decodes is the word of its command (spec/30_encoding.md R90, R94 to R96): a word is the packing
of its fields, and each format requires 0 in the fields its command does not carry. -/

namespace Sys2Proof

theorem selBit_selOf {b : Nat} (h : b < 2) : selBit (selOf b) = b := by
  obtain rfl | rfl : b = 0 ∨ b = 1 := by omega
  · rfl
  · rfl

theorem slice_bit_lt (v k : Nat) : slice v k k < 2 := by
  simpa [slice] using Nat.mod_lt (v / 2 ^ k) (by decide : 2 > 0)

/-- The fields of R90 with bits 31:10 clear make up the whole word. -/
theorem packWord_slices {w : CmdWord} (h : slice w.toNat 31 10 = 0) :
    packWord (slice w.toNat 7 0) (slice w.toNat 8 8) (slice w.toNat 9 9) = w := by
  have hw := w.isLt
  apply BitVec.eq_of_toNat_eq
  simp only [packWord, slice, BitVec.toNat_ofNat] at h ⊢
  omega

/-- Bits 31:8 of format `C0` cover both selector bits and bits 31:10. -/
theorem slices_eq_zero_of_slice_31_8 {v : Nat} (h : slice v 31 8 = 0) :
    slice v 31 10 = 0 ∧ slice v 8 8 = 0 ∧ slice v 9 9 = 0 := by
  simp only [slice] at h ⊢
  omega

section
variable {w : CmdWord} {op : Nat} {j : Instr}

theorem encode_of_decodeC0 {i : Instr} (hi : encode i = packWord op 0 0) (hop : slice w.toNat 7 0 = op)
    (h : decodeC0 w.toNat i = .ok j) : encode j = w := by
  unfold decodeC0 at h
  split at h
  case isTrue hclear =>
    obtain ⟨hhigh, hma, hmb⟩ := slices_eq_zero_of_slice_31_8 hclear
    have hw := packWord_slices hhigh
    cases h
    rwa [hop, hma, hmb, ← hi] at hw
  case isFalse => cases h

theorem encode_of_decodeCF {i : ModSel → ModSel → Instr}
    (hi : ∀ ma mb, encode (i ma mb) = packWord op (selBit ma) (selBit mb)) (hop : slice w.toNat 7 0 = op)
    (h : decodeCF w.toNat i = .ok j) : encode j = w := by
  unfold decodeCF at h
  split at h
  case isTrue hhigh =>
    have hw := packWord_slices hhigh
    cases h
    rwa [hop, ← selBit_selOf (slice_bit_lt _ 8), ← selBit_selOf (slice_bit_lt _ 9), ← hi] at hw
  case isFalse => cases h

theorem encode_of_decodeCI {i : ModSel → Instr} (hi : ∀ mb, encode (i mb) = packWord op 0 (selBit mb))
    (hop : slice w.toNat 7 0 = op) (h : decodeCI w.toNat i = .ok j) : encode j = w := by
  unfold decodeCI at h
  split at h
  case isTrue hclear =>
    obtain ⟨hhigh, hma⟩ := hclear
    have hw := packWord_slices hhigh
    cases h
    rwa [hop, hma, ← selBit_selOf (slice_bit_lt _ 9), ← hi] at hw
  case isFalse => cases h

end

/-- One arm of the decoder for each opcode, in its order: four of format `CF`, one of `CI`, ten of `C0`. -/
theorem encode_of_decode {w : CmdWord} {i : Instr} (h : decode w = .ok i) : encode i = w := by
  unfold decode at h
  iterate 4
    obtain ⟨hop, h⟩ | ⟨-, h⟩ := ite_eq_iff.mp h
    · exact encode_of_decodeCF (fun _ _ => rfl) hop h
  obtain ⟨hop, h⟩ | ⟨-, h⟩ := ite_eq_iff.mp h
  · exact encode_of_decodeCI (fun _ => rfl) hop h
  iterate 10
    obtain ⟨hop, h⟩ | ⟨-, h⟩ := ite_eq_iff.mp h
    · exact encode_of_decodeC0 rfl hop h
  cases h

end Sys2Proof
end

section
/-! The obligation about the legal words (spec/30_encoding.md R95, R96). -/

namespace Sys2Proof.Proofs
open Sys2Proof.Spec

/-- The table lists every command, under its own word. -/
theorem encode_mem_legalWords (i : Instr) : (encode i, i) ∈ legalWords := by
  cases i with
  | fadd ma mb | fsub ma mb | fmul ma mb | fdiv ma mb => cases ma <;> cases mb <;> decide
  | finv mb => cases mb <;> decide
  | nop | ldk1 | oncurve | padd | pdbl | smul | pubkey | keygen | sign | verify => decide

theorem decode_of_mem_legalWords {w : CmdWord} {i : Instr} (h : (w, i) ∈ legalWords) : decode w = .ok i := by
  have hrows : ∀ row ∈ legalWords, decode row.1 = .ok row.2 := by decide
  exact hrows _ h

/-- Settles O2: each row decodes as listed, and a word that decodes is its command's word, which the table lists. -/
theorem decodeAcceptsExactlyTheLegalWords : Obligations.DecodeAcceptsExactlyTheLegalWords := by
  refine ⟨rfl, by decide, fun w i => ⟨fun h => ?_, decode_of_mem_legalWords⟩⟩
  rw [← encode_of_decode h]
  exact encode_mem_legalWords i

end Sys2Proof.Proofs
end

section
/-! SUPPORT. The operand checks of the field commands, one equation per outcome (spec/30_encoding.md R94,
spec/40_field.md R120, R122, R127). -/

namespace Sys2Proof.Machine
open Sys2Proof.Spec

theorem modulus_eq_modOf (x : Regs) (sel : ModSel) : modulus x sel = modOf x sel := by cases sel <;> rfl

theorem modOf_lt (x : Regs) (sel : ModSel) : modOf x sel < 2 ^ 256 := by cases sel <;> exact BitVec.isLt _

theorem felt_of_lt {v m : Nat} (h : v < m) : felt v m = .ok v := if_pos h

theorem felt_of_not_lt {v m : Nat} (h : ¬ v < m) : felt v m = .error .operandRange := if_neg h

section
variable {ma mb : ModSel} {x : Regs}

theorem fprelude_of_same_field (ha : x.opa.toNat < modOf x ma) (hb : x.opb.toNat < modOf x mb)
    (hm : modOf x ma = modOf x mb) : fprelude ma mb x = .ok (x.opa.toNat, x.opb.toNat, modOf x ma) := by
  simp only [fprelude, modulus_eq_modOf, felt_of_lt ha, felt_of_lt hb]
  exact if_neg (not_not_intro hm)

theorem fprelude_of_moduli_ne (ha : x.opa.toNat < modOf x ma) (hb : x.opb.toNat < modOf x mb)
    (hm : modOf x ma ≠ modOf x mb) : fprelude ma mb x = .error .fieldMismatch := by
  simp only [fprelude, modulus_eq_modOf, felt_of_lt ha, felt_of_lt hb]
  exact if_pos hm

/-- The range of either operand is checked before the moduli are compared (R122, R241). -/
theorem fprelude_of_not_in_range (h : ¬ (x.opa.toNat < modOf x ma ∧ x.opb.toNat < modOf x mb)) :
    fprelude ma mb x = .error .operandRange := by
  simp only [fprelude, modulus_eq_modOf]
  by_cases ha : x.opa.toNat < modOf x ma
  · rw [felt_of_lt ha, felt_of_not_lt fun hb => h ⟨ha, hb⟩]
    rfl
  · rw [felt_of_not_lt ha]
    rfl

theorem finvOperand_of_lt (hb : x.opb.toNat < modOf x mb) : finvOperand mb x = .ok (x.opb.toNat, modOf x mb) := by
  rw [finvOperand, modulus_eq_modOf, felt_of_lt hb]
  rfl

theorem finvOperand_of_not_lt (hb : ¬ x.opb.toNat < modOf x mb) : finvOperand mb x = .error .operandRange := by
  rw [finvOperand, modulus_eq_modOf, felt_of_not_lt hb]
  rfl

end

end Sys2Proof.Machine
end

section
/-! SUPPORT. How the field commands complete: with a number in `RES` (spec/10_state.md R25), or with an error. FADD,
FSUB, FMUL and FDIV are one command over their value-level functions (spec/40_field.md R122, R124 to R126, R128). -/

namespace Sys2Proof.Machine
open Sys2Proof.Spec

/-- A result that fits a register is in `RES`, and nothing else but `STATUS` and the phase has changed (R42). -/
theorem succeed_writeRes {v : Nat} (hv : v < 2 ^ 256) (s : State) :
    ∃ w : Word, w.toNat = v ∧ .next (succeed (writeRes v) s) = succeeded s { s.regs with res := w } :=
  ⟨BitVec.ofNat 256 v, by rw [BitVec.toNat_ofNat, Nat.mod_eq_of_lt hv], rfl⟩

/-- The completion of a command on two field operands (R122): the prelude, then `g` on what the prelude gives. -/
def fieldCompletion (g : Nat → Nat → Nat → Result Nat) (ma mb : ModSel) (s : State) : Ending :=
  .next (complete writeRes ((fprelude ma mb (latched s)).bind fun t => g t.1 t.2.1 t.2.2) s)

theorem exec_fadd (ma mb : ModSel) (s : State) :
    exec (.fadd ma mb) s = fieldCompletion (fun a b m => .ok (fadd a b m)) ma mb s := rfl

theorem exec_fsub (ma mb : ModSel) (s : State) :
    exec (.fsub ma mb) s = fieldCompletion (fun a b m => .ok (fsub a b m)) ma mb s := rfl

theorem exec_fmul (ma mb : ModSel) (s : State) :
    exec (.fmul ma mb) s = fieldCompletion (fun a b m => .ok (fmul a b m)) ma mb s := rfl

theorem exec_fdiv (ma mb : ModSel) (s : State) : exec (.fdiv ma mb) s = fieldCompletion fdiv ma mb s := rfl

theorem exec_finv (mb : ModSel) (s : State) :
    exec (.finv mb) s = .next (complete writeRes ((finvOperand mb (latched s)).bind fun t => finv t.1 t.2) s) := rfl

section
variable {g : Nat → Nat → Nat → Result Nat} {ma mb : ModSel} {s : State}

theorem fieldCompletion_of_same_field (ha : (latched s).opa.toNat < modOf (latched s) ma)
    (hb : (latched s).opb.toNat < modOf (latched s) mb) (hm : modOf (latched s) ma = modOf (latched s) mb) :
    fieldCompletion g ma mb s =
      .next (complete writeRes (g (latched s).opa.toNat (latched s).opb.toNat (modOf (latched s) ma)) s) := by
  rw [fieldCompletion, fprelude_of_same_field ha hb hm]
  rfl

theorem fieldCompletion_of_moduli_ne (ha : (latched s).opa.toNat < modOf (latched s) ma)
    (hb : (latched s).opb.toNat < modOf (latched s) mb) (hm : modOf (latched s) ma ≠ modOf (latched s) mb) :
    fieldCompletion g ma mb s = failed s .fieldMismatch := by
  rw [fieldCompletion, fprelude_of_moduli_ne ha hb hm]
  rfl

theorem fieldCompletion_of_not_in_range
    (h : ¬ ((latched s).opa.toNat < modOf (latched s) ma ∧ (latched s).opb.toNat < modOf (latched s) mb)) :
    fieldCompletion g ma mb s = failed s .operandRange := by
  rw [fieldCompletion, fprelude_of_not_in_range h]
  rfl

end

section
variable {mb : ModSel} {s : State}

theorem exec_finv_of_lt (hb : (latched s).opb.toNat < modOf (latched s) mb) :
    exec (.finv mb) s = .next (complete writeRes (finv (latched s).opb.toNat (modOf (latched s) mb)) s) := by
  rw [exec_finv, finvOperand_of_lt hb]
  rfl

theorem exec_finv_of_not_lt (hb : ¬ (latched s).opb.toNat < modOf (latched s) mb) :
    exec (.finv mb) s = failed s .operandRange := by
  rw [exec_finv, finvOperand_of_not_lt hb]
  rfl

end

/-- A command that completes with `f` of its operands obeys the rule of R124 to R126 when `f` reduces its result: a
residue of a register's modulus fits `RES`. -/
theorem fieldCommandRule_of_exec {i : ModSel → ModSel → Instr} {f : Nat → Nat → Nat → Nat}
    (hexec : ∀ ma mb s, exec (i ma mb) s = fieldCompletion (fun a b m => .ok (f a b m)) ma mb s)
    (hlt : ∀ (a b : Nat) {m : Nat}, 0 < m → f a b m < m) : FieldCommandRule i f := by
  intro ma mb s x a b
  rw [hexec]
  refine ⟨fun ha hb hm => ?result, fieldCompletion_of_not_in_range, fieldCompletion_of_moduli_ne⟩
  have hfits : f a b (modOf x ma) < 2 ^ 256 := (hlt a b (Nat.zero_lt_of_lt ha)).trans (modOf_lt x ma)
  rw [fieldCompletion_of_same_field ha hb hm]
  exact succeed_writeRes hfits s

end Sys2Proof.Machine
end

section
/-! The obligations about the field commands (spec/40_field.md R124 to R128). -/

namespace Sys2Proof.Proofs
open Sys2Proof.Machine Sys2Proof.Spec

/-- Settles O24: FADD completes with `fadd`, which reduces. -/
theorem faddAddsModulo : Obligations.FaddAddsModulo := fieldCommandRule_of_exec exec_fadd fadd_lt

/-- Settles O25: FSUB completes with `fsub`, which reduces. -/
theorem fsubSubtractsModulo : Obligations.FsubSubtractsModulo := fieldCommandRule_of_exec exec_fsub fsub_lt

/-- Settles O26: FMUL completes with `fmul`, which reduces. -/
theorem fmulMultipliesModulo : Obligations.FmulMultipliesModulo := fieldCommandRule_of_exec exec_fmul fmul_lt

/-- Settles O27: an operand in range reaches `finv`, which is the exact power by `finv_eq`. -/
theorem finvIsTheFermatPower : Obligations.FinvIsTheFermatPower := by
  intro mb s x b m
  refine ⟨fun hb h0 => ?power, fun hb h0 => ?zero, fun hb => exec_finv_of_not_lt hb.not_gt⟩
  case power =>
    have hfits : b ^ (m - 2) % m < 2 ^ 256 := (Nat.mod_lt _ (Nat.zero_lt_of_lt hb)).trans (modOf_lt x mb)
    rw [exec_finv_of_lt hb, finv_eq, if_neg h0]
    exact succeed_writeRes hfits s
  case zero =>
    rw [exec_finv_of_lt hb, finv_eq, if_pos h0]
    rfl

/-- Settles O28: operands of one field reach `fdiv`, which is the product with the exact power by `fdiv_eq`. -/
theorem fdivIsTheProductWithTheFermatPower : Obligations.FdivIsTheProductWithTheFermatPower := by
  intro ma mb s x a b m
  rw [exec_fdiv]
  refine ⟨fun ha hb hm h0 => ?product, fieldCompletion_of_not_in_range, fieldCompletion_of_moduli_ne,
    fun ha hb hm h0 => ?zero⟩
  case product =>
    have hfits : a * (b ^ (m - 2) % m) % m < 2 ^ 256 :=
      (Nat.mod_lt _ (Nat.zero_lt_of_lt ha)).trans (modOf_lt x ma)
    rw [fieldCompletion_of_same_field ha hb hm, fdiv_eq, if_neg h0]
    exact succeed_writeRes hfits s
  case zero =>
    rw [fieldCompletion_of_same_field ha hb hm, fdiv_eq, if_pos h0]
    rfl

end Sys2Proof.Proofs
end

section
/-! SUPPORT. The curve and the points a command reads, one equation per outcome of their range checks
(spec/41_curve.md R150, R151, R164; spec/60_exceptions.md R240). -/

namespace Sys2Proof.Machine
open Sys2Proof.Spec

section
variable {x : Regs}

theorem ctx_of_curveIn (h : CurveIn x) : ctx x = .ok (curveOf x) := by
  rw [ctx, felt_of_lt h.1, felt_of_lt h.2]
  rfl

theorem ctx_of_not_curveIn (h : ¬ CurveIn x) : ctx x = .error .operandRange := by
  by_cases ha : x.a.toNat < x.p.toNat
  · rw [ctx, felt_of_lt ha, felt_of_not_lt fun hb => h ⟨ha, hb⟩]
    rfl
  · rw [ctx, felt_of_not_lt ha]
    rfl

theorem curveOf_p_pos (h : CurveIn x) : 0 < (curveOf x).p := Nat.zero_lt_of_lt h.1

theorem curveOf_p_le (x : Regs) : (curveOf x).p ≤ 2 ^ 256 := x.p.isLt.le

end

/-- An operand of a command (R26, R151, R164): read in range it is the point `pt`, whose coordinates are reduced; out of
range it is the error `OPERAND_RANGE`. -/
structure ChecksRange (read : Regs → Result Point) (In : Regs → Prop) (pt : Regs → Point) : Prop where
  of_in : ∀ {x}, In x → read x = .ok (pt x)
  of_not_in : ∀ {x}, ¬ In x → read x = .error .operandRange
  reduced : ∀ {x}, In x → Reduced x.p.toNat (pt x)

section
variable {px py : Word} {tag : Bit} {p : Nat}

theorem pointOf_of_in (h : PointIn p px py tag) : pointOf px py tag p = .ok (pointHeld px py tag) := by
  by_cases htag : tag = 1
  · rw [pointOf, pointHeld, if_pos htag, if_pos htag]
  · obtain ⟨hx, hy⟩ := h.resolve_left htag
    rw [pointOf, pointHeld, if_neg htag, if_neg htag, felt_of_lt hx, felt_of_lt hy]
    rfl

theorem pointOf_of_not_in (h : ¬ PointIn p px py tag) : pointOf px py tag p = .error .operandRange := by
  obtain ⟨htag, hxy⟩ := not_or.mp h
  rw [pointOf, if_neg htag]
  by_cases hx : px.toNat < p
  · rw [felt_of_lt hx, felt_of_not_lt fun hy => hxy ⟨hx, hy⟩]
    rfl
  · rw [felt_of_not_lt hx]
    rfl

theorem reduced_pointHeld (h : PointIn p px py tag) : Reduced p (pointHeld px py tag) := by
  by_cases htag : tag = 1
  · rw [pointHeld, if_pos htag]
    trivial
  · rw [pointHeld, if_neg htag]
    exact h.resolve_left htag

end

theorem point1_checksRange : ChecksRange point1 In1 held1 := ⟨pointOf_of_in, pointOf_of_not_in, reduced_pointHeld⟩

theorem point2_checksRange : ChecksRange point2 In2 held2 := ⟨pointOf_of_in, pointOf_of_not_in, reduced_pointHeld⟩

theorem basept_of_not_baseIn {x : Regs} (h : ¬ BaseIn x) : basept x = .error .operandRange := by
  by_cases hx : x.gx.toNat < x.p.toNat
  · rw [basept, felt_of_lt hx, felt_of_not_lt fun hy => h ⟨hx, hy⟩]
    rfl
  · rw [basept, felt_of_not_lt hx]
    rfl

theorem basept_checksRange : ChecksRange basept BaseIn baseOf where
  of_in h := by
    rw [basept, felt_of_lt h.1, felt_of_lt h.2]
    rfl
  of_not_in := basept_of_not_baseIn
  reduced h := h

end Sys2Proof.Machine
end

section
/-! SUPPORT. The value-level functions of the curve in exact arithmetic: the curve equation, `padd` and `pdbl` case by
case, and the recursion of `smul` (spec/41_curve.md R152 to R154, R160). What they return is reduced. -/

namespace Sys2Proof.Machine
open Sys2Proof.Spec

/-! ### The curve equation -/

/-- Reducing after every operation gives the same residue as reducing once (R152). -/
theorem onCurve_iff {c : Curve} {pt : Point} : onCurve c pt = true ↔ OnCurve c pt := by
  cases pt with
  | inf => exact iff_of_true rfl trivial
  | aff x y =>
    have hcube : (x * x % c.p * x % c.p + c.a * x % c.p) % c.p = (x ^ 3 + c.a * x) % c.p := by
      rw [← Nat.add_mod, ← Nat.mod_add_mod, Nat.mod_mul_mod, Nat.mod_add_mod, pow_three']
    rw [onCurve, decide_eq_true_iff, OnCurve]
    simp only [fmul, fadd]
    rw [hcube, Nat.mod_add_mod, pow_two]

theorem onCurve_eq_false_iff {c : Curve} {pt : Point} : onCurve c pt = false ↔ ¬ OnCurve c pt := by
  rw [← onCurve_iff, Bool.not_eq_true]

theorem onCurve_ne_false {c : Curve} {pt : Point} (h : OnCurve c pt) : onCurve c pt ≠ false :=
  fun hoff => onCurve_eq_false_iff.mp hoff h

theorem fdiv_of_ne_zero (a m : Nat) {b : Nat} (h : b ≠ 0) : fdiv a b m = .ok (a * (b ^ (m - 2) % m) % m) := by
  rw [fdiv_eq, if_neg h]

@[simp] theorem fdiv_zero (a m : Nat) : fdiv a 0 m = .error .divideByZero := rfl

theorem fsub_self_eq_zero (a m : Nat) : fsub a a m = 0 := by rw [fsub, Nat.add_sub_cancel_left, Nat.mod_self]

theorem fsub_ne_zero {a b m : Nat} (ha : a < m) (hb : b < m) (h : a ≠ b) : fsub a b m ≠ 0 := by
  rw [fsub]
  obtain hlt | hgt := lt_or_gt_of_ne h
  · rw [Nat.mod_eq_of_lt (by omega)]
    omega
  · rw [show a + m - b = a - b + m by omega, Nat.add_mod_right, Nat.mod_eq_of_lt (by omega)]
    omega

/-! ### Chord and tangent -/

/-- The third point of the chord, in exact arithmetic modulo `p` (R153, step 5). -/
def chordPoint (p x1 y1 x2 y2 : Nat) : Point :=
  let sl := (y2 + p - y1) % p * (((x2 + p - x1) % p) ^ (p - 2) % p) % p
  let x3 := ((sl * sl % p + p - x1) % p + p - x2) % p
  .aff x3 ((sl * ((x1 + p - x3) % p) % p + p - y1) % p)

/-- The point of the tangent, in exact arithmetic modulo `p` (R154, step 2). -/
def tangentPoint (c : Curve) (x1 y1 : Nat) : Point :=
  let sl := (3 * x1 ^ 2 + c.a) % c.p * ((2 * y1 % c.p) ^ (c.p - 2) % c.p) % c.p
  let x3 := (sl * sl % c.p + c.p - 2 * x1 % c.p) % c.p
  .aff x3 ((sl * ((x1 + c.p - x3) % c.p) % c.p + c.p - y1) % c.p)

section
variable {c : Curve} {x1 y1 x2 y2 : Nat}

theorem reduced_chordPoint (hp : 0 < c.p) : Reduced c.p (chordPoint c.p x1 y1 x2 y2) :=
  ⟨Nat.mod_lt _ hp, Nat.mod_lt _ hp⟩

theorem reduced_tangentPoint (hp : 0 < c.p) : Reduced c.p (tangentPoint c x1 y1) :=
  ⟨Nat.mod_lt _ hp, Nat.mod_lt _ hp⟩

theorem chord_of_fsub_ne_zero (h : fsub x2 x1 c.p ≠ 0) :
    chord c x1 y1 x2 y2 = if onCurve c (chordPoint c.p x1 y1 x2 y2) then .ok (chordPoint c.p x1 y1 x2 y2)
      else .error .internal := by
  rw [chord, fdiv_of_ne_zero _ _ h]
  rfl

theorem chord_of_fsub_eq_zero (h : fsub x2 x1 c.p = 0) : chord c x1 y1 x2 y2 = .error .divideByZero := by
  rw [chord, h, fdiv_zero]
  rfl

/-- The constants 2 and 3 of the tangent are reduced before they are used (R154). -/
theorem fmul_reduce (k v m : Nat) : fmul (reduce k m) v m = k * v % m := Nat.mod_mul_mod k v m

theorem tangent_numerator (a x m : Nat) : fadd (3 * fmul x x m % m) a m = (3 * x ^ 2 + a) % m := by
  rw [fadd, fmul, Nat.mul_mod_mod, Nat.mod_add_mod, pow_two]

theorem tangent_of_ne_zero (h : 2 * y1 % c.p ≠ 0) : tangent c x1 y1 = .ok (tangentPoint c x1 y1) := by
  simp only [tangent, fmul_reduce, tangent_numerator, fdiv_of_ne_zero _ _ h]
  rfl

theorem tangent_of_eq_zero (h : 2 * y1 % c.p = 0) : tangent c x1 y1 = .error .divideByZero := by
  simp only [tangent, fmul_reduce, h, fdiv_zero]
  rfl

/-! ### `padd` and `pdbl` -/

theorem reduced_of_chord {rt : Point} (hp : 0 < c.p) (h : chord c x1 y1 x2 y2 = .ok rt) : Reduced c.p rt := by
  by_cases hx : fsub x2 x1 c.p = 0
  · rw [chord_of_fsub_eq_zero hx] at h
    cases h
  · rw [chord_of_fsub_ne_zero hx] at h
    split at h
    · cases h
      exact reduced_chordPoint hp
    · cases h

theorem paddOn_of_inverse (hx : x1 = x2) (hy : (y1 + y2) % c.p = 0) :
    paddOn c (.aff x1 y1) (.aff x2 y2) = .ok .inf := if_pos ⟨hx, hy⟩

theorem paddOn_of_eq (hx : x1 = x2) (hy : (y1 + y2) % c.p ≠ 0) (h : y1 = y2) :
    paddOn c (.aff x1 y1) (.aff x2 y2) = .error .invalidPoint := by
  rw [paddOn, if_neg fun hinv => hy hinv.2, if_pos ⟨hx, h⟩]

theorem paddOn_of_not_inverse_of_ne (hy : (y1 + y2) % c.p ≠ 0) (h : y1 ≠ y2) :
    paddOn c (.aff x1 y1) (.aff x2 y2) = chord c x1 y1 x2 y2 := by
  rw [paddOn, if_neg fun hinv => hy hinv.2, if_neg fun heq => h heq.2]

theorem paddOn_of_x_ne (hx : x1 ≠ x2) : paddOn c (.aff x1 y1) (.aff x2 y2) = chord c x1 y1 x2 y2 := by
  rw [paddOn, if_neg fun hinv => hx hinv.1, if_neg fun heq => hx heq.1]

end

section
variable {c : Curve} {pt qt rt : Point}

theorem paddOn_inf_left (c : Curve) (pt : Point) : paddOn c .inf pt = .ok pt := rfl

theorem paddOn_inf_right (c : Curve) (pt : Point) : paddOn c pt .inf = .ok pt := by cases pt <;> rfl

theorem reduced_of_paddOn (hp : 0 < c.p) (hpt : Reduced c.p pt) (hqt : Reduced c.p qt)
    (h : paddOn c pt qt = .ok rt) : Reduced c.p rt := by
  cases pt with
  | inf =>
    cases h
    exact hqt
  | aff x1 y1 =>
    cases qt with
    | inf =>
      cases h
      exact hpt
    | aff x2 y2 =>
      rw [paddOn] at h
      split at h
      · cases h
        trivial
      · split at h
        · cases h
        · exact reduced_of_chord hp h

theorem padd_of_onCurve (hpt : OnCurve c pt) (hqt : OnCurve c qt) : padd c pt qt = paddOn c pt qt := by
  rw [padd, if_neg (not_or.mpr ⟨onCurve_ne_false hpt, onCurve_ne_false hqt⟩)]

theorem padd_of_not_onCurve (h : ¬ (OnCurve c pt ∧ OnCurve c qt)) : padd c pt qt = .error .offCurve := by
  rw [padd, if_pos ((not_and_or.mp h).imp onCurve_eq_false_iff.mpr onCurve_eq_false_iff.mpr)]

theorem reduced_of_padd (hp : 0 < c.p) (hpt : Reduced c.p pt) (hqt : Reduced c.p qt) (h : padd c pt qt = .ok rt) :
    Reduced c.p rt := by
  by_cases hon : OnCurve c pt ∧ OnCurve c qt
  · rw [padd_of_onCurve hon.1 hon.2] at h
    exact reduced_of_paddOn hp hpt hqt h
  · rw [padd_of_not_onCurve hon] at h
    cases h

theorem pdbl_of_not_onCurve (h : ¬ OnCurve c pt) : pdbl c pt = .error .offCurve := if_pos (onCurve_eq_false_iff.mpr h)

theorem pdbl_inf (c : Curve) : pdbl c .inf = .ok .inf := rfl

theorem pdbl_aff {x1 y1 : Nat} (h : OnCurve c (.aff x1 y1)) : pdbl c (.aff x1 y1) = tangent c x1 y1 :=
  if_neg (onCurve_ne_false h)

theorem reduced_of_pdbl (hp : 0 < c.p) (h : pdbl c pt = .ok rt) : Reduced c.p rt := by
  by_cases hon : OnCurve c pt
  · cases pt with
    | inf =>
      cases h
      trivial
    | aff x1 y1 =>
      rw [pdbl_aff hon] at h
      by_cases hy : 2 * y1 % c.p = 0
      · rw [tangent_of_eq_zero hy] at h
        cases h
      · rw [tangent_of_ne_zero hy] at h
        cases h
        exact reduced_tangentPoint hp
  · rw [pdbl_of_not_onCurve hon] at h
    cases h

/-! ### `smul`: one equation per line of R160, and the relation -/

variable {k : Nat} {r : Result Point}

theorem smul_of_not_onCurve (h : ¬ OnCurve c pt) : smul c pt k = .error .offCurve := by
  rw [smul_step, if_pos (onCurve_eq_false_iff.mpr h)]

theorem smul_zero (h : OnCurve c pt) : smul c pt 0 = .ok .inf := by
  rw [smul_step, if_neg (onCurve_ne_false h), if_pos rfl]

theorem smul_one (h : OnCurve c pt) : smul c pt 1 = .ok pt := by
  rw [smul_step, if_neg (onCurve_ne_false h), if_neg one_ne_zero, if_pos rfl]

theorem smul_odd (h : OnCurve c pt) (h1 : k ≠ 1) (hodd : k % 2 = 1) :
    smul c pt k = (smul c pt (k - 1)).bind (padd c pt) := by
  rw [smul_step, if_neg (onCurve_ne_false h), if_neg (by omega), if_neg h1, if_pos hodd]

theorem smul_even (h : OnCurve c pt) (h0 : k ≠ 0) (heven : k % 2 = 0) :
    smul c pt k = (pdbl c pt).bind fun dbl => smul c dbl (k / 2) := by
  rw [smul_step, if_neg (onCurve_ne_false h), if_neg h0, if_neg (by omega), if_neg (by omega)]

/-- The recursion ends with what `smul` computes: along the recursion's own calls, by strong induction on the scalar. -/
theorem smulEnds_smul (c : Curve) (pt : Point) (k : Nat) : SmulEnds c pt k (smul c pt k) := by
  induction k using Nat.strong_induction_on generalizing pt with
  | _ k ih =>
    by_cases hon : OnCurve c pt
    · obtain rfl | rfl | ⟨h1, hodd⟩ | ⟨h0, heven⟩ :
          k = 0 ∨ k = 1 ∨ (k ≠ 1 ∧ k % 2 = 1) ∨ (k ≠ 0 ∧ k % 2 = 0) := by omega
      · rw [smul_zero hon]
        exact .zero hon
      · rw [smul_one hon]
        exact .one hon
      · have hpred := ih (k - 1) (by omega) pt
        rw [smul_odd hon h1 hodd]
        cases hsub : smul c pt (k - 1) with
        | ok t => exact .odd hon h1 hodd (hsub ▸ hpred)
        | error kind => exact .oddError hon h1 hodd (hsub ▸ hpred)
      · rw [smul_even hon h0 heven]
        cases hdbl : pdbl c pt with
        | ok d => exact .even hon h0 heven hdbl (ih (k / 2) (by omega) d)
        | error kind => exact .evenError hon h0 heven hdbl
    · rw [smul_of_not_onCurve hon]
      exact .offCurve hon

/-- The recursion ends in no other way: each rule of the relation is an equation of `smul`. -/
theorem eq_smul_of_smulEnds (h : SmulEnds c pt k r) : r = smul c pt k := by
  induction h with
  | offCurve hoff => rw [smul_of_not_onCurve hoff]
  | zero hon => rw [smul_zero hon]
  | one hon => rw [smul_one hon]
  | oddError hon h1 hodd _ ih =>
    rw [smul_odd hon h1 hodd, ← ih]
    rfl
  | odd hon h1 hodd _ ih =>
    rw [smul_odd hon h1 hodd, ← ih]
    rfl
  | evenError hon h0 heven hdbl =>
    rw [smul_even hon h0 heven, hdbl]
    rfl
  | even hon h0 heven hdbl _ ih =>
    rw [smul_even hon h0 heven, hdbl, ih]
    rfl

/-- Along the recursion, every point it returns is `Inf`, its operand, or made by `padd` or `pdbl`. -/
theorem reduced_of_smulEnds (hp : 0 < c.p) (h : SmulEnds c pt k r) (hpt : Reduced c.p pt) (hr : r = .ok rt) :
    Reduced c.p rt := by
  induction h generalizing rt with
  | offCurve | oddError | evenError => cases hr
  | zero =>
    cases hr
    trivial
  | one =>
    cases hr
    exact hpt
  | odd _ _ _ _ ih => exact reduced_of_padd hp hpt (ih hpt rfl) hr
  | even _ _ _ hdbl _ ih => exact ih (reduced_of_pdbl hp hdbl) hr

theorem reduced_of_smul (hp : 0 < c.p) (hpt : Reduced c.p pt) (h : smul c pt k = .ok rt) : Reduced c.p rt :=
  reduced_of_smulEnds hp (smulEnds_smul c pt k) hpt h

end

end Sys2Proof.Machine
end

section
/-! SUPPORT. How the curve commands complete. ONCURVE, PADD, PDBL, SMUL and PUBKEY are one command over their
value-level functions: the curve, a point, then the function (spec/41_curve.md R155 to R159). -/

namespace Sys2Proof.Machine
open Sys2Proof.Spec

/-- A point with coordinates below a modulus that fits a register is written as R26 says. -/
theorem endsWithPoint_succeed {p : Nat} {pt : Point} (s : State) (hp : p ≤ 2 ^ 256) (h : Reduced p pt) :
    EndsWithPoint s (.next (succeed (writePoint pt) s)) pt := by
  cases pt with
  | inf => rfl
  | aff px py =>
    obtain ⟨hx, hy⟩ := h
    refine ⟨BitVec.ofNat 256 px, BitVec.ofNat 256 py, ?_, ?_, rfl⟩
    · rw [BitVec.toNat_ofNat, Nat.mod_eq_of_lt (hx.trans_le hp)]
    · rw [BitVec.toNat_ofNat, Nat.mod_eq_of_lt (hy.trans_le hp)]

/-- A completion whose points are reduced ends as its outcome does. -/
theorem endsAs_complete {p : Nat} {r : Result Point} (s : State) (hp : p ≤ 2 ^ 256)
    (h : ∀ rt, r = .ok rt → Reduced p rt) : EndsAs s (.next (complete writePoint r s)) r := by
  cases r with
  | ok rt => exact endsWithPoint_succeed s hp (h rt rfl)
  | error kind => rfl

/-- The completion of a command on the curve and one point: the checks of both, then `g` on them. -/
def curveCompletion {α : Type} (write : α → Regs → Regs) (read : Regs → Result Point) (g : Curve → Point → Result α)
    (s : State) : Ending :=
  .next (complete write ((ctx (latched s)).bind fun c => (read (latched s)).bind (g c)) s)

theorem exec_oncurve (s : State) :
    exec .oncurve s = curveCompletion writeFlag point1 (fun c pt => .ok (onCurve c pt)) s := rfl

theorem exec_padd (s : State) :
    exec .padd s = curveCompletion writePoint point1 (fun c pt => (point2 (latched s)).bind (padd c pt)) s := rfl

theorem exec_pdbl (s : State) : exec .pdbl s = curveCompletion writePoint point1 pdbl s := rfl

theorem exec_smul (s : State) :
    exec .smul s = curveCompletion writePoint point1 (fun c pt => smul c pt (latched s).k.toNat) s := rfl

theorem exec_pubkey (s : State) :
    exec .pubkey s = curveCompletion writePoint basept (fun c pt => smul c pt (latched s).d.toNat) s := rfl

section
variable {α : Type} {write : α → Regs → Regs} {g : Curve → Point → Result α} {read : Regs → Result Point}
  {In : Regs → Prop} {pt : Regs → Point} {s : State}

theorem curveCompletion_of_in (hread : ChecksRange read In pt) (hc : CurveIn (latched s)) (hin : In (latched s)) :
    curveCompletion write read g s = .next (complete write (g (curveOf (latched s)) (pt (latched s))) s) := by
  rw [curveCompletion, ctx_of_curveIn hc, hread.of_in hin]
  rfl

theorem curveCompletion_of_not_in (hread : ChecksRange read In pt) (h : ¬ (CurveIn (latched s) ∧ In (latched s))) :
    curveCompletion write read g s = failed s .operandRange := by
  by_cases hc : CurveIn (latched s)
  · rw [curveCompletion, ctx_of_curveIn hc, hread.of_not_in fun hin => h ⟨hc, hin⟩]
    rfl
  · rw [curveCompletion, ctx_of_not_curveIn hc]
    rfl

end

section
variable {s : State}

theorem exec_padd_of_in (hc : CurveIn (latched s)) (h1 : In1 (latched s)) (h2 : In2 (latched s)) :
    exec .padd s =
      .next (complete writePoint (padd (curveOf (latched s)) (held1 (latched s)) (held2 (latched s))) s) := by
  rw [exec_padd, curveCompletion_of_in point1_checksRange hc h1, point2_checksRange.of_in h2]
  rfl

theorem exec_padd_of_not_in (h : ¬ (CurveIn (latched s) ∧ In1 (latched s) ∧ In2 (latched s))) :
    exec .padd s = failed s .operandRange := by
  rw [exec_padd]
  by_cases hin : CurveIn (latched s) ∧ In1 (latched s)
  · rw [curveCompletion_of_in point1_checksRange hin.1 hin.2,
      point2_checksRange.of_not_in fun h2 => h ⟨hin.1, hin.2, h2⟩]
    rfl
  · exact curveCompletion_of_not_in point1_checksRange hin

theorem endsAs_exec_padd (hc : CurveIn (latched s)) (h1 : In1 (latched s)) (h2 : In2 (latched s)) :
    EndsAs s (exec .padd s) (padd (curveOf (latched s)) (held1 (latched s)) (held2 (latched s))) := by
  rw [exec_padd_of_in hc h1 h2]
  exact endsAs_complete s (curveOf_p_le _) fun rt =>
    reduced_of_padd (curveOf_p_pos hc) (reduced_pointHeld h1) (reduced_pointHeld h2)

theorem endsAs_exec_pdbl (hc : CurveIn (latched s)) (h1 : In1 (latched s)) :
    EndsAs s (exec .pdbl s) (pdbl (curveOf (latched s)) (held1 (latched s))) := by
  rw [exec_pdbl, curveCompletion_of_in point1_checksRange hc h1]
  exact endsAs_complete s (curveOf_p_le _) fun rt => reduced_of_pdbl (curveOf_p_pos hc)

theorem exec_oncurve_of_in (hc : CurveIn (latched s)) (h1 : In1 (latched s)) :
    exec .oncurve s = succeeded s
      { s.regs with flag := if onCurve (curveOf (latched s)) (held1 (latched s)) then 1 else 0 } := by
  rw [exec_oncurve, curveCompletion_of_in point1_checksRange hc h1]
  rfl

end

/-- A command that completes with `smul` of an operand and a raw scalar obeys the rule of R158 and R159. -/
theorem scalarCommandRule_of_exec {i : Instr} {read : Regs → Result Point} {In : Regs → Prop} {pt : Regs → Point}
    {k : Regs → Nat} (hread : ChecksRange read In pt)
    (hexec : ∀ s, exec i s = curveCompletion writePoint read (fun c pt => smul c pt (k (latched s))) s) :
    ScalarCommandRule i In pt k := by
  intro s x
  rw [hexec]
  refine ⟨curveCompletion_of_not_in hread, fun hc hin => ?_⟩
  refine ⟨smul (curveOf x) (pt x) (k x), smulEnds_smul _ _ _, fun r' => eq_smul_of_smulEnds, ?_⟩
  rw [curveCompletion_of_in hread hc hin]
  exact endsAs_complete s (curveOf_p_le _) fun rt => reduced_of_smul (curveOf_p_pos hc) (hread.reduced hin)

end Sys2Proof.Machine
end

section
/-! The obligations about the curve commands (spec/41_curve.md R152 to R160). -/

namespace Sys2Proof.Proofs
open Sys2Proof.Machine Sys2Proof.Spec

/-- Settles O30: the flag is `onCurve` of point operand 1, which is the equation by `onCurve_iff`. -/
theorem oncurveAnswersTheEquation : Obligations.OncurveAnswersTheEquation := by
  intro s x
  refine ⟨fun hc htag => ?identity, fun hc htag hx hy => ?affine, curveCompletion_of_not_in point1_checksRange⟩
  case identity =>
    have hheld : held1 x = .inf := if_pos htag
    rw [exec_oncurve_of_in hc (.inl htag), hheld]
    rfl
  case affine =>
    have hheld : held1 x = .aff x.x1.toNat x.y1.toNat := if_neg htag
    have hiff := onCurve_iff (c := curveOf x) (pt := .aff x.x1.toNat x.y1.toNat)
    rw [exec_oncurve_of_in hc (.inr ⟨hx, hy⟩), hheld]
    refine ⟨fun heq => ?_, fun hne => ?_⟩
    · rw [if_pos (hiff.mpr heq)]
    · rw [if_neg fun hon => hne (hiff.mp hon)]

/-- Settles O31: PADD ends as `padd` does, and each clause is one of the equations of `padd`. -/
theorem paddFollowsItsSteps : Obligations.PaddFollowsItsSteps := by
  intro s x c p
  refine ⟨exec_padd_of_not_in, fun hc h1 h2 => ?_⟩
  have hends : EndsAs s (exec .padd s) (padd c (held1 x) (held2 x)) := endsAs_exec_padd hc h1 h2
  refine ⟨fun hoff => by rwa [padd_of_not_onCurve hoff] at hends, fun hon1 hon2 => ?_⟩
  rw [padd_of_onCurve hon1 hon2] at hends
  refine ⟨fun hinf => by rwa [hinf, paddOn_inf_left] at hends,
    fun hinf => by rwa [hinf, paddOn_inf_right] at hends, ?_⟩
  intro x1 y1 x2 y2 heq1 heq2
  have hred1 : Reduced p (held1 x) := reduced_pointHeld h1
  have hred2 : Reduced p (held2 x) := reduced_pointHeld h2
  rw [heq1] at hends hred1
  rw [heq2] at hends hred2
  refine ⟨fun hx hy => ?inverse, fun hx hy h => ?equal, fun hx hy h => ?equalX, fun hx => ?chord⟩
  case inverse => rwa [paddOn_of_inverse hx hy] at hends
  case equal => rwa [paddOn_of_eq hx hy h] at hends
  case equalX =>
    have hzero : fsub x2 x1 c.p = 0 := hx ▸ fsub_self_eq_zero x1 c.p
    rwa [paddOn_of_not_inverse_of_ne hy h, chord_of_fsub_eq_zero hzero] at hends
  case chord =>
    rw [paddOn_of_x_ne hx, chord_of_fsub_ne_zero (fsub_ne_zero hred2.1 hred1.1 (Ne.symm hx))] at hends
    change (OnCurve c (chordPoint p x1 y1 x2 y2) → EndsWithPoint s _ (chordPoint p x1 y1 x2 y2)) ∧
      (¬ OnCurve c (chordPoint p x1 y1 x2 y2) → _)
    refine ⟨fun hon => ?_, fun hoff => ?_⟩
    · rwa [if_pos (onCurve_iff.mpr hon)] at hends
    · rwa [if_neg fun hon => hoff (onCurve_iff.mp hon)] at hends

/-- Settles O32: PDBL ends as `pdbl` does, and each clause is one of the equations of `pdbl`. -/
theorem pdblFollowsItsSteps : Obligations.PdblFollowsItsSteps := by
  intro s x c p
  refine ⟨curveCompletion_of_not_in point1_checksRange, fun hc h1 => ?_⟩
  have hends : EndsAs s (exec .pdbl s) (pdbl c (held1 x)) := endsAs_exec_pdbl hc h1
  refine ⟨fun hoff => by rwa [pdbl_of_not_onCurve hoff] at hends, fun hinf => by rwa [hinf, pdbl_inf] at hends, ?_⟩
  intro x1 y1 heq hon
  rw [heq, pdbl_aff hon] at hends
  refine ⟨fun hy => ?orderTwo, fun hy => ?tangent⟩
  case orderTwo => rwa [tangent_of_eq_zero hy] at hends
  case tangent => rwa [tangent_of_ne_zero hy] at hends

/-- Settles O33: SMUL is `smul` of point operand 1 and `K`. -/
theorem smulEndsAsTheRecursion : Obligations.SmulEndsAsTheRecursion :=
  scalarCommandRule_of_exec point1_checksRange exec_smul

/-- Settles O34: PUBKEY is `smul` of the base point and `D`. -/
theorem pubkeyEndsAsTheRecursion : Obligations.PubkeyEndsAsTheRecursion :=
  scalarCommandRule_of_exec basept_checksRange exec_pubkey

end Sys2Proof.Proofs
end

section
/-! SUPPORT. The operand checks of KEYGEN, SIGN and VERIFY, one equation per outcome (spec/42_ecdsa.md R183, R187;
spec/60_exceptions.md R240). -/

namespace Sys2Proof.Machine
open Sys2Proof.Spec

/-- The context the registers hold, before any check (R183). -/
abbrev ecdsaCtxOf (x : Regs) : EcdsaCtx := ⟨curveOf x, baseOf x, x.n.toNat⟩

section
variable {x : Regs}

theorem ectx_of_in (hc : CurveIn x) (hg : BaseIn x) : ectx x = .ok (ecdsaCtxOf x) := by
  rw [ectx, ctx_of_curveIn hc, basept_checksRange.of_in hg]
  rfl

theorem ectx_of_not_in (h : ¬ (CurveIn x ∧ BaseIn x)) : ectx x = .error .operandRange := by
  by_cases hc : CurveIn x
  · rw [ectx, ctx_of_curveIn hc, basept_of_not_baseIn fun hg => h ⟨hc, hg⟩]
    rfl
  · rw [ectx, ctx_of_not_curveIn hc]
    rfl

theorem ectxDraw_of_drawIn (h : DrawIn x) : ectxDraw x = .ok (ecdsaCtxOf x) := by
  obtain ⟨hc, hg, hn⟩ := h
  rw [ectxDraw, ectx_of_in hc hg]
  exact if_neg hn.not_gt

theorem ectxDraw_of_not_drawIn (h : ¬ DrawIn x) : ectxDraw x = .error .operandRange := by
  by_cases hin : CurveIn x ∧ BaseIn x
  · rw [ectxDraw, ectx_of_in hin.1 hin.2]
    exact if_pos (lt_of_not_ge fun hn => h ⟨hin.1, hin.2, hn⟩)
  · rw [ectxDraw, ectx_of_not_in hin]
    rfl

/-- Past the checks of the context, VERIFY checks `R`, `S` and point operand 2, in this order (R187). -/
theorem verifyCommand_of_ectx_in (hc : CurveIn x) (hg : BaseIn x) :
    verifyCommand x = (felt x.r.toNat x.n.toNat).bind fun r => (felt x.s.toNat x.n.toNat).bind fun s =>
      (point2 x).bind fun q => verifyCore (ecdsaCtxOf x) x.e.toNat q r s := by
  rw [verifyCommand, ectx_of_in hc hg]
  rfl

theorem verifyCommand_of_verifyIn (h : VerifyIn x) :
    verifyCommand x = verifyCore (ecdsaCtxOf x) x.e.toNat (held2 x) x.r.toNat x.s.toNat := by
  obtain ⟨hc, hg, hr, hs, hq⟩ := h
  rw [verifyCommand_of_ectx_in hc hg, felt_of_lt hr, felt_of_lt hs, point2_checksRange.of_in hq]
  rfl

theorem verifyCommand_of_not_verifyIn (h : ¬ VerifyIn x) : verifyCommand x = .error .operandRange := by
  by_cases hin : CurveIn x ∧ BaseIn x
  · obtain ⟨hc, hg⟩ := hin
    rw [verifyCommand_of_ectx_in hc hg]
    by_cases hr : x.r.toNat < x.n.toNat
    · by_cases hs : x.s.toNat < x.n.toNat
      · rw [felt_of_lt hr, felt_of_lt hs, point2_checksRange.of_not_in fun hq => h ⟨hc, hg, hr, hs, hq⟩]
        rfl
      · rw [felt_of_lt hr, felt_of_not_lt hs]
        rfl
    · rw [felt_of_not_lt hr]
      rfl
  · rw [verifyCommand, ectx_of_not_in hin]
    rfl

end

end Sys2Proof.Machine
end

section
/-! SUPPORT. The draw of KEYGEN and SIGN by the next answer of the random port (spec/10_state.md R44,
spec/42_ecdsa.md R184). The two commands are one completion over what they do with the number drawn (R185, R186). -/

namespace Sys2Proof.Machine
open Sys2Proof.Spec

section
variable {s : State} {n v : Nat} {rest : List RngAnswer}

theorem drawNonzero_of_failure (h : s.env.rng = .failure :: rest) :
    drawNonzero n s = (.error .rngFailure, withRng rest s) := by
  rw [drawNonzero, h]
  rfl

/-- A rejected answer is gone, and nothing else remembers it. -/
theorem drawNonzero_of_rejected (h : s.env.rng = .value v :: rest) (hv : v % n = 0) :
    drawNonzero n s = drawNonzero n (withRng rest s) := by
  rw [drawNonzero, h, drawFrom, if_pos hv]
  rfl

theorem drawNonzero_of_accepted (h : s.env.rng = .value v :: rest) (hv : v % n ≠ 0) :
    drawNonzero n s = (.ok (v % n), withRng rest s) := by
  rw [drawNonzero, h, drawFrom, if_neg hv]
  rfl

end

/-- The completion of a command that draws (R185, R186): the checks, the draw, then `f` on the number drawn. -/
def drawCompletion {α : Type} (write : α → Regs → Regs) (f : EcdsaCtx → Nat → Result α) (s : State) : Ending :=
  .next (completeWithDraw write (ectxDraw (latched s)) f s)

theorem exec_keygen (s : State) : exec .keygen s = drawCompletion writeKeyPair keyPair s := rfl

theorem exec_sign (s : State) :
    exec .sign s = drawCompletion writeSignature
      (fun ec k => signCore ec (latched s).e.toNat (latched s).d.toNat k) s := rfl

section
variable {α : Type} {write : α → Regs → Regs} {f : EcdsaCtx → Nat → Result α} {s : State} {rest : List RngAnswer}

theorem drawCompletion_of_not_drawIn (h : ¬ DrawIn (latched s)) :
    drawCompletion write f s = failed s .operandRange := by
  rw [drawCompletion, ectxDraw_of_not_drawIn h]
  rfl

theorem drawCompletion_of_drawIn (h : DrawIn (latched s)) :
    drawCompletion write f s =
      .next (complete write ((drawNonzero (latched s).n.toNat s).1.bind (f (ecdsaCtxOf (latched s))))
        (drawNonzero (latched s).n.toNat s).2) := by
  rw [drawCompletion, ectxDraw_of_drawIn h]
  rfl

theorem drawCompletion_of_failure (h : DrawIn (latched s)) (hrng : s.env.rng = .failure :: rest) :
    drawCompletion write f s = failed (withRng rest s) .rngFailure := by
  rw [drawCompletion_of_drawIn h, drawNonzero_of_failure hrng]
  rfl

theorem drawCompletion_of_zero (h : DrawIn (latched s)) (hrng : s.env.rng = .value 0 :: rest) :
    drawCompletion write f s = drawCompletion write f (withRng rest s) := by
  have hdraw := drawNonzero_of_rejected (n := (latched s).n.toNat) hrng (Nat.zero_mod _)
  rw [drawCompletion_of_drawIn h, hdraw, drawCompletion_of_drawIn (s := withRng rest s) h]
  rfl

theorem drawCompletion_of_value {v : Nat} (h : DrawIn (latched s)) (hrng : s.env.rng = .value v :: rest) (h1 : 1 ≤ v)
    (hlt : v < (latched s).n.toNat) :
    drawCompletion write f s = .next (complete write (f (ecdsaCtxOf (latched s)) v) (withRng rest s)) := by
  have hmod : v % (latched s).n.toNat = v := Nat.mod_eq_of_lt hlt
  rw [drawCompletion_of_drawIn h, drawNonzero_of_accepted hrng (by omega), hmod]
  rfl

end

end Sys2Proof.Machine
end

section
/-! SUPPORT. The value-level functions of the signature layer case by case (spec/42_ecdsa.md R185, R188, R189), and
what a completion with their values leaves in the registers. -/

namespace Sys2Proof.Machine
open Sys2Proof.Spec

theorem word_toNat_ofNat {v : Nat} (h : v < 2 ^ 256) : (BitVec.ofNat 256 v).toNat = v :=
  (BitVec.toNat_ofNat v 256).trans (Nat.mod_eq_of_lt h)

/-- The recursion's end is a rewriting rule for `smul`. -/
theorem smul_of_smulEnds {c : Curve} {pt : Point} {k : Nat} {r : Result Point} (h : SmulEnds c pt k r) :
    smul c pt k = r := (eq_smul_of_smulEnds h).symm

/-! ### KEYGEN -/

theorem keyPair_eq (ec : EcdsaCtx) (d : Nat) : keyPair ec d = (smul ec.c ec.g d).map fun q => (d, q) := rfl

/-- A number that fits `D` is in it beside the result point, which is written as R26 says; an error leaves both (R185). -/
theorem keygenEnds_complete {p d : Nat} {r : Result Point} (s : State) (hd : d < 2 ^ 256) (hp : p ≤ 2 ^ 256)
    (h : ∀ rt, r = .ok rt → Reduced p rt) :
    KeygenEnds s d (.next (complete writeKeyPair (r.map fun q => (d, q)) s)) r := by
  have hvd : (BitVec.ofNat 256 d).toNat = d := word_toNat_ofNat hd
  cases r with
  | error kind => rfl
  | ok rt =>
    have hpoint := endsWithPoint_succeed { s with regs := { s.regs with d := BitVec.ofNat 256 d } } hp (h rt rfl)
    cases rt with
    | inf => exact ⟨_, hvd, hpoint⟩
    | aff px py =>
      obtain ⟨vx, vy, hx, hy, hend⟩ := hpoint
      exact ⟨_, vx, vy, hvd, hx, hy, hend⟩

/-! ### SIGN -/

/-- `s` of a signature, in exact arithmetic modulo `n` (R188, step 5). -/
def signatureS (n e d k r : Nat) : Nat := (e + r * d % n) % n * (k ^ (n - 2) % n) % n

section
variable {n e d k xR : Nat}

theorem signFrom_of_ne_zero (hk : k ≠ 0) (hr : xR % n ≠ 0) :
    signFrom n e d k xR = if signatureS n e d k (xR % n) = 0 then .error .badNonce
      else .ok (xR % n, signatureS n e d k (xR % n)) := by
  rw [signFrom, reduce, if_neg hr, fdiv_of_ne_zero _ _ hk]
  rfl

theorem signFrom_of_bad (hk : k ≠ 0) (h : xR % n = 0 ∨ signatureS n e d k (xR % n) = 0) :
    signFrom n e d k xR = .error .badNonce := by
  by_cases hr : xR % n = 0
  · exact if_pos hr
  · rw [signFrom_of_ne_zero hk hr, if_pos (h.resolve_left hr)]

theorem signFrom_of_good (hk : k ≠ 0) (hr : xR % n ≠ 0) (hs : signatureS n e d k (xR % n) ≠ 0) :
    signFrom n e d k xR = .ok (xR % n, signatureS n e d k (xR % n)) := by
  rw [signFrom_of_ne_zero hk hr, if_neg hs]

end

section
variable {ec : EcdsaCtx} {eRaw dRaw k xR yR : Nat}

theorem signCore_of_error {kind : ErrorKind} (h : smul ec.c ec.g k = .error kind) :
    signCore ec eRaw dRaw k = .error kind := by
  rw [signCore, h]
  rfl

theorem signCore_of_inf (h : smul ec.c ec.g k = .ok .inf) : signCore ec eRaw dRaw k = .error .badNonce := by
  rw [signCore, h]
  rfl

theorem signCore_of_aff (h : smul ec.c ec.g k = .ok (.aff xR yR)) :
    signCore ec eRaw dRaw k = signFrom ec.n (eRaw % ec.n) (dRaw % ec.n) k xR := by
  rw [signCore, h]
  rfl

end

theorem succeed_writeSignature {r sg : Nat} (hr : r < 2 ^ 256) (hsg : sg < 2 ^ 256) (s : State) :
    ∃ vr vs : Word, vr.toNat = r ∧ vs.toNat = sg ∧
      .next (succeed (writeSignature (r, sg)) s) = succeeded s { s.regs with r := vr, s := vs } :=
  ⟨BitVec.ofNat 256 r, BitVec.ofNat 256 sg, word_toNat_ofNat hr, word_toNat_ofNat hsg, rfl⟩

/-! ### VERIFY -/

/-- `v / s` in exact arithmetic modulo `n`: `u1` for the digest, `u2` for `r` (R189, step 3). -/
def verifyScalar (n s v : Nat) : Nat := v * (s ^ (n - 2) % n) % n

section
variable {ec : EcdsaCtx} {eRaw r s : Nat} {q a1 a2 : Point} {kind : ErrorKind}

theorem verifyCore_inf : verifyCore ec eRaw .inf r s = .error .invalidPoint := rfl

theorem verifyCore_zero (hq : q ≠ .inf) : verifyCore ec eRaw q r 0 = .error .divideByZero := if_neg hq

/-- The curve operations of R189 in their order: `u1*G`, `u2*Q`, their sum. -/
theorem verifyCore_of_ne_zero (hq : q ≠ .inf) (hs : s ≠ 0) :
    verifyCore ec eRaw q r s =
      (smul ec.c ec.g (verifyScalar ec.n s (eRaw % ec.n))).bind fun a1 =>
        (smul ec.c q (verifyScalar ec.n s r)).bind fun a2 => (padd ec.c a1 a2).map (verifyPoint ec.n r) := by
  rw [verifyCore, if_neg hq, finv_eq, if_neg hs]
  rfl

theorem verifyCore_of_first_error (hq : q ≠ .inf) (hs : s ≠ 0)
    (h1 : smul ec.c ec.g (verifyScalar ec.n s (eRaw % ec.n)) = .error kind) :
    verifyCore ec eRaw q r s = .error kind := by
  rw [verifyCore_of_ne_zero hq hs, h1]
  rfl

theorem verifyCore_of_second_error (hq : q ≠ .inf) (hs : s ≠ 0)
    (h1 : smul ec.c ec.g (verifyScalar ec.n s (eRaw % ec.n)) = .ok a1)
    (h2 : smul ec.c q (verifyScalar ec.n s r) = .error kind) : verifyCore ec eRaw q r s = .error kind := by
  rw [verifyCore_of_ne_zero hq hs, h1, h2]
  rfl

theorem verifyCore_of_summands (hq : q ≠ .inf) (hs : s ≠ 0)
    (h1 : smul ec.c ec.g (verifyScalar ec.n s (eRaw % ec.n)) = .ok a1)
    (h2 : smul ec.c q (verifyScalar ec.n s r) = .ok a2) :
    verifyCore ec eRaw q r s = (padd ec.c a1 a2).map (verifyPoint ec.n r) := by
  rw [verifyCore_of_ne_zero hq hs, h1, h2]
  rfl

end

theorem exec_verify (s : State) : exec .verify s = .next (complete writeFlag (verifyCommand (latched s)) s) := rfl

theorem exec_verify_of_not_in {s : State} (h : ¬ VerifyIn (latched s)) : exec .verify s = failed s .operandRange := by
  rw [exec_verify, verifyCommand_of_not_verifyIn h]
  rfl

theorem exec_verify_of_in {s : State} (h : VerifyIn (latched s)) :
    exec .verify s = .next (complete writeFlag (verifyCore (ecdsaCtxOf (latched s)) (latched s).e.toNat
      (held2 (latched s)) (latched s).r.toNat (latched s).s.toNat) s) := by
  rw [exec_verify, verifyCommand_of_verifyIn h]

end Sys2Proof.Machine
end

section
/-! The obligations about KEYGEN, SIGN and VERIFY (spec/42_ecdsa.md R184 to R189). -/

namespace Sys2Proof.Proofs
open Sys2Proof.Machine Sys2Proof.Spec

/-- Settles O39: an answer in range reaches `keyPair`, which is `smul` of the base point, so its point is reduced. -/
theorem keygenFollowsItsRule : Obligations.KeygenFollowsItsRule := by
  intro s x
  refine ⟨drawCompletion_of_not_drawIn, fun hin => ⟨fun rest => drawCompletion_of_failure hin,
    fun rest => drawCompletion_of_zero hin, fun d rest r hrng h1 hlt hends => ?_⟩⟩
  have ⟨hc, hg, _⟩ := hin
  have hfits : d < 2 ^ 256 := hlt.trans x.n.isLt
  rw [exec_keygen, drawCompletion_of_value hin hrng h1 hlt, keyPair_eq, smul_of_smulEnds hends]
  exact keygenEnds_complete _ hfits (curveOf_p_le x) fun rt => reduced_of_smulEnds (curveOf_p_pos hc) hends hg

/-- Settles O41: an answer in range reaches `signCore`, and each clause is one of its equations. -/
theorem signFollowsItsRule : Obligations.SignFollowsItsRule := by
  intro s x n e d
  refine ⟨drawCompletion_of_not_drawIn, fun hin => ⟨fun rest => drawCompletion_of_failure hin,
    fun rest => drawCompletion_of_zero hin, fun k rest hrng h1 hlt => ?_⟩⟩
  intro s'
  have hk : k ≠ 0 := Nat.ne_of_gt h1
  have hfits (v : Nat) : v % n < 2 ^ 256 := (Nat.mod_lt v (Nat.zero_lt_of_lt hlt)).trans x.n.isLt
  have hexec : exec .sign s = .next (complete writeSignature (signCore (ecdsaCtxOf x) x.e.toNat x.d.toNat k) s') :=
    drawCompletion_of_value hin hrng h1 hlt
  rw [hexec]
  refine ⟨fun kind hends => ?error, fun hends => ?identity, fun xR yR hends =>
    ⟨fun hbad => ?bad, fun hr hs => ?good⟩⟩
  case error =>
    rw [signCore_of_error (smul_of_smulEnds hends)]
    rfl
  case identity =>
    rw [signCore_of_inf (smul_of_smulEnds hends)]
    rfl
  case bad =>
    rw [signCore_of_aff (smul_of_smulEnds hends), signFrom_of_bad hk hbad]
    rfl
  case good =>
    rw [signCore_of_aff (smul_of_smulEnds hends), signFrom_of_good hk hr hs]
    exact succeed_writeSignature (hfits _) (hfits _) s'

/-- Settles O44: operands in range reach `verifyCore`, whose errors come in the order of its three curve operations. -/
theorem verifyFollowsItsSteps : Obligations.VerifyFollowsItsSteps := by
  intro s x c n e r w u1 u2
  refine ⟨exec_verify_of_not_in, fun hin => ?_⟩
  rw [exec_verify_of_in hin]
  refine ⟨fun hinf => ?identity, fun hq => ⟨fun hs => ?zero, fun hs => ?_⟩⟩
  case identity =>
    rw [hinf, verifyCore_inf]
    rfl
  case zero =>
    have hs0 : x.s.toNat = 0 := congrArg BitVec.toNat hs
    rw [hs0, verifyCore_zero hq]
    rfl
  have hs0 : x.s.toNat ≠ 0 := fun h => hs (BitVec.eq_of_toNat_eq h)
  refine ⟨fun kind hends1 => ?first, fun a1 hends1 => ⟨fun kind hends2 => ?second, fun a2 hends2 => ?_⟩⟩
  case first =>
    rw [verifyCore_of_first_error hq hs0 (smul_of_smulEnds hends1)]
    rfl
  case second =>
    rw [verifyCore_of_second_error hq hs0 (smul_of_smulEnds hends1) (smul_of_smulEnds hends2)]
    rfl
  rw [verifyCore_of_summands hq hs0 (smul_of_smulEnds hends1) (smul_of_smulEnds hends2)]
  refine ⟨fun kind hsum => ?sum, fun hsum => ?sumInf, fun xP yP hsum => ⟨fun hx => ?accept, fun hx => ?reject⟩⟩
  case sum | sumInf =>
    rw [hsum]
    rfl
  case accept =>
    rw [hsum, Except.map, verifyPoint, reduce, decide_eq_true hx]
    rfl
  case reject =>
    rw [hsum, Except.map, verifyPoint, reduce, decide_eq_false hx]
    rfl

end Sys2Proof.Proofs
end

section
/-! SUPPORT. How the control commands complete: always with success, the context registers being all that LDK1 writes
(spec/43_control.md R211, R212). -/

namespace Sys2Proof.Machine
open Sys2Proof.Spec

/-- A success whose result registers leave `STATUS` out is the statements' successful completion (R42). -/
theorem next_succeed_eq_succeeded {write : Regs → Regs} {s : State} (h : (write s.regs).status = s.regs.status) :
    .next (succeed write s) = succeeded s (write s.regs) := by
  rw [succeeded, ← h]
  rfl

theorem exec_nop (s : State) : exec .nop s = .next (succeed id s) := rfl

theorem exec_ldk1 (s : State) : exec .ldk1 s = .next (succeed writePreset s) := rfl

end Sys2Proof.Machine
end

section
/-! The obligations about NOP and LDK1 (spec/43_control.md R211 to R214). -/

namespace Sys2Proof.Proofs
open Sys2Proof.Machine Sys2Proof.Spec

/-- Settles O22: NOP is a success that writes no result register. -/
theorem nopOnlyCompletes : Obligations.NopOnlyCompletes := by
  intro s
  rw [exec_nop]
  exact next_succeed_eq_succeeded rfl

/-- Settles O23: LDK1 is a success that writes the preset, whose words are the constants of R214. -/
theorem ldkLoadsThePreset : Obligations.LdkLoadsThePreset := by
  intro s
  refine ⟨Config.presetP, Config.presetGX, Config.presetGY, Config.presetN, rfl, rfl, rfl, rfl, ?_⟩
  rw [exec_ldk1]
  exact next_succeed_eq_succeeded (writePreset_status s.regs)

end Sys2Proof.Proofs
end

section
/-! SUPPORT. The error kinds a value-level outcome can be (spec/60_exceptions.md R231, R232), function by function. No
value-level function fails with `OPERAND_RANGE`: that kind is left to the checks of the operands (R240). -/

namespace Sys2Proof.Machine
open Sys2Proof.Spec

/-- If the outcome is an error, its kind is one of `ks`. -/
def ErrorsIn {α : Type} (ks : List ErrorKind) : Result α → Prop
  | .ok _ => True
  | .error kind => kind ∈ ks

section
variable {α β : Type} {ks ks' : List ErrorKind} {r : Result α}

@[simp] theorem errorsIn_ok (v : α) : ErrorsIn ks (.ok v : Result α) := trivial

@[simp] theorem errorsIn_error {kind : ErrorKind} : ErrorsIn ks (.error kind : Result α) ↔ kind ∈ ks := Iff.rfl

theorem ErrorsIn.mono (hr : ErrorsIn ks r) (hks : ks ⊆ ks') : ErrorsIn ks' r := by
  cases r with
  | ok v => exact errorsIn_ok v
  | error kind => exact hks hr

theorem ErrorsIn.bind {f : α → Result β} (hr : ErrorsIn ks r) (hf : ∀ v, r = .ok v → ErrorsIn ks (f v)) :
    ErrorsIn ks (r.bind f) := by
  cases r with
  | ok v => exact hf v rfl
  | error kind => exact hr

theorem ErrorsIn.map (f : α → β) (hr : ErrorsIn ks r) : ErrorsIn ks (r.map f) := by
  cases r with
  | ok v => exact errorsIn_ok (f v)
  | error kind => exact hr

end

/-! ### Field and curve -/

/-- What curve arithmetic can fail with (R153, R154, R160). -/
abbrev curveKinds : List ErrorKind := [.divideByZero, .offCurve, .invalidPoint, .internal]

theorem errorsIn_finv (b m : Nat) : ErrorsIn [.divideByZero] (finv b m) := by
  rw [finv_eq]
  split <;> simp

theorem errorsIn_fdiv (a b m : Nat) : ErrorsIn [.divideByZero] (fdiv a b m) := by
  rw [fdiv_eq]
  split <;> simp

section
variable {c : Curve}

theorem errorsIn_chord (x1 y1 x2 y2 : Nat) : ErrorsIn [.divideByZero, .internal] (chord c x1 y1 x2 y2) := by
  by_cases hx : fsub x2 x1 c.p = 0
  · simp [chord_of_fsub_eq_zero hx]
  · rw [chord_of_fsub_ne_zero hx]
    split <;> simp

theorem errorsIn_paddOn (pt qt : Point) : ErrorsIn curveKinds (paddOn c pt qt) := by
  cases pt with
  | inf => exact errorsIn_ok qt
  | aff x1 y1 =>
    cases qt with
    | inf => exact errorsIn_ok _
    | aff x2 y2 =>
      rw [paddOn]
      split_ifs
      · exact errorsIn_ok _
      · simp
      · exact (errorsIn_chord x1 y1 x2 y2).mono (by decide)

theorem errorsIn_padd (pt qt : Point) : ErrorsIn curveKinds (padd c pt qt) := by
  by_cases hon : OnCurve c pt ∧ OnCurve c qt
  · rw [padd_of_onCurve hon.1 hon.2]
    exact errorsIn_paddOn pt qt
  · simp [padd_of_not_onCurve hon]

theorem errorsIn_tangent (x1 y1 : Nat) : ErrorsIn [.divideByZero] (tangent c x1 y1) := by
  by_cases hy : 2 * y1 % c.p = 0
  · simp [tangent_of_eq_zero hy]
  · simp [tangent_of_ne_zero hy]

theorem errorsIn_pdbl (pt : Point) : ErrorsIn [.divideByZero, .offCurve] (pdbl c pt) := by
  by_cases hon : OnCurve c pt
  · cases pt with
    | inf => exact errorsIn_ok _
    | aff x1 y1 =>
      rw [pdbl_aff hon]
      exact (errorsIn_tangent x1 y1).mono (by decide)
  · simp [pdbl_of_not_onCurve hon]

/-- Along the recursion of R160: an error is that of `padd` or `pdbl`, or the point is off the curve. -/
theorem errorsIn_of_smulEnds {pt : Point} {k : Nat} {r : Result Point} (h : SmulEnds c pt k r) :
    ErrorsIn curveKinds r := by
  induction h with
  | offCurve => simp
  | zero | one => exact errorsIn_ok _
  | oddError _ _ _ _ ih => exact ih
  | odd => exact errorsIn_padd _ _
  | evenError _ _ _ hdbl => exact hdbl ▸ (errorsIn_pdbl _).mono (by decide)
  | even _ _ _ _ _ ih => exact ih

theorem errorsIn_smul (pt : Point) (k : Nat) : ErrorsIn curveKinds (smul c pt k) :=
  errorsIn_of_smulEnds (smulEnds_smul c pt k)

end

/-! ### ECDSA -/

section
variable (ec : EcdsaCtx)

theorem errorsIn_keyPair (d : Nat) : ErrorsIn curveKinds (keyPair ec d) := by
  rw [keyPair_eq]
  exact (errorsIn_smul _ _).map _

theorem errorsIn_signFrom (n e d k xR : Nat) : ErrorsIn [.divideByZero, .badNonce] (signFrom n e d k xR) := by
  rw [signFrom]
  split
  · simp
  · refine ((errorsIn_fdiv _ _ _).mono (by decide)).bind fun s _ => ?_
    split <;> simp

theorem errorsIn_signCore (eRaw dRaw k : Nat) : ErrorsIn (.badNonce :: curveKinds) (signCore ec eRaw dRaw k) := by
  refine ((errorsIn_smul ec.g k).mono (by decide)).bind fun rp _ => ?_
  cases rp with
  | inf => simp
  | aff xR yR => exact (errorsIn_signFrom ..).mono (by decide)

theorem errorsIn_verifyCore (eRaw : Nat) (q : Point) (r s : Nat) : ErrorsIn curveKinds (verifyCore ec eRaw q r s) := by
  by_cases hq : q = .inf
  · simp [hq, verifyCore_inf]
  by_cases hs : s = 0
  · simp [hs, verifyCore_zero hq]
  rw [verifyCore_of_ne_zero hq hs]
  exact (errorsIn_smul _ _).bind fun a1 _ => (errorsIn_smul _ _).bind fun a2 _ => (errorsIn_padd a1 a2).map _

end

theorem errorsIn_drawNonzero {n : Nat} (hn : 2 ≤ n) (s : State) : ErrorsIn [.rngFailure] (drawNonzero n s).1 := by
  obtain hfail | ⟨v, -, -, hv⟩ := drawFrom_cases s.env.draws hn s.env.rng
  · exact hfail ▸ List.mem_singleton_self _
  · exact hv ▸ errorsIn_ok v

end Sys2Proof.Machine
end

section
/-! SUPPORT. What the completion of any command can be, said once (spec/10_state.md R42, spec/60_exceptions.md R236):
the error `OPERAND_RANGE` when a check of its operands fails (R240), and past the checks a success or an error of
another kind that R232 lists for it. -/

namespace Sys2Proof.Machine
open Sys2Proof.Spec

/-- A completion of a command started in `s` is a success or an error of a kind in `ks`. Either may have drawn, so
nothing is said of the environment. -/
inductive CompletesWithin (ks : List ErrorKind) (s : State) : Ending → Prop
  | success {t : State} (hphase : t.phase = .idle) (hstatus : t.regs.status = successStatus s.regs.status) :
      CompletesWithin ks s (.next t)
  | error {t : State} {kind : ErrorKind} (hkind : kind ∈ ks) (hphase : t.phase = .idle)
      (hregs : t.regs = { s.regs with status := errorStatus kind s.regs.status }) : CompletesWithin ks s (.next t)

theorem CompletesWithin.mono {ks ks' : List ErrorKind} {s : State} {o : Ending} (h : CompletesWithin ks s o)
    (hks : ks ⊆ ks') : CompletesWithin ks' s o := by
  cases h with
  | success hphase hstatus => exact .success hphase hstatus
  | error hkind hphase hregs => exact .error (hks hkind) hphase hregs

section
variable {ks : List ErrorKind} {s : State}

/-- A completion with a value-level outcome, from a state whose registers are those of `s`. -/
theorem completesWithin_complete {α : Type} {write : α → Regs → Regs} {r : Result α} {s' : State}
    (hwrite : ∀ v x, (write v x).status = x.status) (hregs : s'.regs = s.regs) (hr : ErrorsIn ks r) :
    CompletesWithin ks s (.next (complete write r s')) := by
  cases r with
  | ok v => exact .success rfl (by rw [complete_ok, succeed_status, hwrite, hregs])
  | error kind => exact .error hr rfl (by rw [complete_error, raiseError_regs, hregs])

theorem completesWithin_failed {kind : ErrorKind} (h : kind ∈ ks) : CompletesWithin ks s (failed s kind) :=
  .error h rfl rfl

/-! ### Past the checks -/

theorem completesWithin_fieldCompletion {g : Nat → Nat → Nat → Result Nat} {ma mb : ModSel}
    (hg : ∀ a b m, ErrorsIn ks (g a b m)) (ha : (latched s).opa.toNat < modOf (latched s) ma)
    (hb : (latched s).opb.toNat < modOf (latched s) mb) :
    CompletesWithin (.fieldMismatch :: ks) s (fieldCompletion g ma mb s) := by
  by_cases hm : modOf (latched s) ma = modOf (latched s) mb
  · rw [fieldCompletion_of_same_field ha hb hm]
    exact completesWithin_complete writeRes_status rfl ((hg _ _ _).mono (List.subset_cons_self _ _))
  · rw [fieldCompletion_of_moduli_ne ha hb hm]
    exact completesWithin_failed List.mem_cons_self

theorem completesWithin_curveCompletion {α : Type} {write : α → Regs → Regs} {g : Curve → Point → Result α}
    {read : Regs → Result Point} {In : Regs → Prop} {pt : Regs → Point} (hread : ChecksRange read In pt)
    (hwrite : ∀ v x, (write v x).status = x.status) (hg : ∀ c pt, ErrorsIn ks (g c pt))
    (h : CurveIn (latched s) ∧ In (latched s)) : CompletesWithin ks s (curveCompletion write read g s) := by
  rw [curveCompletion_of_in hread h.1 h.2]
  exact completesWithin_complete hwrite rfl (hg _ _)

theorem completesWithin_drawCompletion {α : Type} {write : α → Regs → Regs} {f : EcdsaCtx → Nat → Result α}
    (hwrite : ∀ v x, (write v x).status = x.status) (hf : ∀ ec v, ErrorsIn ks (f ec v)) (hrng : .rngFailure ∈ ks)
    (h : DrawIn (latched s)) : CompletesWithin ks s (drawCompletion write f s) := by
  have hdraw := (errorsIn_drawNonzero h.2.2 s).mono (List.cons_subset.mpr ⟨hrng, List.nil_subset _⟩)
  rw [drawCompletion_of_drawIn h]
  exact completesWithin_complete hwrite (drawNonzero_regs _ s) (hdraw.bind fun v _ => hf _ v)

end

/-! ### Every command -/

/-- The kinds R232 lists for a command, `OPERAND_RANGE` apart. -/
def kindsPastChecks (i : Instr) : List ErrorKind := (kindsOf i).filter (· ≠ .operandRange)

section
variable {i : Instr} {s : State}

theorem exec_of_not_rangeOk (h : ¬ RangeOk (latched s) i) : exec i s = failed s .operandRange := by
  cases i with
  | nop | ldk1 => exact absurd trivial h
  | fadd ma mb => exact (exec_fadd ma mb s).trans (fieldCompletion_of_not_in_range h)
  | fsub ma mb => exact (exec_fsub ma mb s).trans (fieldCompletion_of_not_in_range h)
  | fmul ma mb => exact (exec_fmul ma mb s).trans (fieldCompletion_of_not_in_range h)
  | fdiv ma mb => exact (exec_fdiv ma mb s).trans (fieldCompletion_of_not_in_range h)
  | finv mb => exact exec_finv_of_not_lt h
  | oncurve => exact (exec_oncurve s).trans (curveCompletion_of_not_in point1_checksRange h)
  | padd => exact exec_padd_of_not_in h
  | pdbl => exact (exec_pdbl s).trans (curveCompletion_of_not_in point1_checksRange h)
  | smul => exact (exec_smul s).trans (curveCompletion_of_not_in point1_checksRange h)
  | pubkey => exact (exec_pubkey s).trans (curveCompletion_of_not_in basept_checksRange h)
  | keygen => exact (exec_keygen s).trans (drawCompletion_of_not_drawIn h)
  | sign => exact (exec_sign s).trans (drawCompletion_of_not_drawIn h)
  | verify => exact exec_verify_of_not_in h

theorem completesWithin_of_rangeOk (h : RangeOk (latched s) i) : CompletesWithin (kindsPastChecks i) s (exec i s) := by
  cases i with
  | nop => exact .success rfl rfl
  | ldk1 => exact .success rfl rfl
  | fadd ma mb => exact completesWithin_fieldCompletion (fun _ _ _ => errorsIn_ok _) h.1 h.2
  | fsub ma mb => exact completesWithin_fieldCompletion (fun _ _ _ => errorsIn_ok _) h.1 h.2
  | fmul ma mb => exact completesWithin_fieldCompletion (fun _ _ _ => errorsIn_ok _) h.1 h.2
  | fdiv ma mb => exact completesWithin_fieldCompletion errorsIn_fdiv h.1 h.2
  | finv mb =>
    rw [exec_finv_of_lt h]
    exact completesWithin_complete writeRes_status rfl (errorsIn_finv _ _)
  | oncurve => exact completesWithin_curveCompletion point1_checksRange writeFlag_status (fun _ _ => errorsIn_ok _) h
  | padd =>
    obtain ⟨hc, h1, h2⟩ := h
    rw [exec_padd_of_in hc h1 h2]
    exact completesWithin_complete writePoint_status rfl (errorsIn_padd _ _)
  | pdbl => exact completesWithin_curveCompletion point1_checksRange writePoint_status (fun _ => errorsIn_pdbl) h
  | smul =>
    exact completesWithin_curveCompletion point1_checksRange writePoint_status (fun _ pt => errorsIn_smul pt _) h
  | pubkey =>
    exact completesWithin_curveCompletion basept_checksRange writePoint_status (fun _ pt => errorsIn_smul pt _) h
  | keygen =>
    exact completesWithin_drawCompletion writeKeyPair_status
      (fun ec d => (errorsIn_keyPair ec d).mono (by decide)) (by decide) h
  | sign =>
    exact completesWithin_drawCompletion writeSignature_status
      (fun ec k => (errorsIn_signCore ec _ _ k).mono (by decide)) (by decide) h
  | verify =>
    rw [exec_verify_of_in h]
    exact completesWithin_complete writeFlag_status rfl (errorsIn_verifyCore _ _ _ _ _)

/-- Only a command with an operand to check can fail a check, and R232 lists the kind for each of them. -/
theorem operandRange_mem_kindsOf (h : ¬ RangeOk (latched s) i) : .operandRange ∈ kindsOf i := by
  cases i with
  | nop | ldk1 => exact absurd trivial h
  | _ => simp [kindsOf]

/-- Every command completes with success or with an error of a kind R232 lists for it. -/
theorem completesWithin_exec (i : Instr) (s : State) : CompletesWithin (kindsOf i) s (exec i s) := by
  by_cases h : RangeOk (latched s) i
  · exact (completesWithin_of_rangeOk h).mono (List.filter_subset_self _)
  · rw [exec_of_not_rangeOk h]
    exact completesWithin_failed (operandRange_mem_kindsOf h)

end

theorem errorCode_eq_operandRange {kind : ErrorKind} : errorCode kind = 9 ↔ kind = .operandRange := by
  cases kind <;> decide

end Sys2Proof.Machine
end

section
/-! The obligations about error completions and the checks of the operands (spec/60_exceptions.md R236, R240). -/

namespace Sys2Proof.Proofs
open Sys2Proof.Machine Sys2Proof.Spec

/-- Settles O47: a success has `ERRCODE` 0, so the completion is an error, whose registers are those of `raiseError`. -/
theorem errorCompletionWritesStatusOnly : Obligations.ErrorCompletionWritesStatusOnly := by
  intro i s t ht hcode
  have hends := completesWithin_exec i s
  rw [ht] at hends
  cases hends with
  | success _ hstatus =>
    rw [hstatus, statusErr_successStatus] at hcode
    exact absurd rfl hcode
  | @error _ kind _ hphase hregs =>
    have hstatus : t.regs.status = errorStatus kind s.regs.status := by rw [hregs]
    refine ⟨kind, hregs, ?_, hphase, ?_, ?_, ?_⟩ <;> rw [hstatus]
    · exact statusErr_errorStatus kind _
    · exact statusDone_errorStatus kind _
    · exact statusBusy_errorStatus kind _
    · simp [or_comm]

/-- Settles O48: the checks come first, and past them no kind of error is `OPERAND_RANGE`. -/
theorem operandRangeExactlyWhenACheckFails : Obligations.OperandRangeExactlyWhenACheckFails := by
  intro i s t ht
  refine ⟨⟨fun hcode hok => ?inRange, fun hbad => ?outOfRange⟩, exec_of_not_rangeOk⟩
  case inRange =>
    have hends := completesWithin_of_rangeOk hok
    rw [ht] at hends
    cases hends with
    | success _ hstatus =>
      rw [hstatus, statusErr_successStatus] at hcode
      exact absurd hcode (by decide)
    | error hkind _ hregs =>
      rw [hregs, statusErr_errorStatus, errorCode_eq_operandRange] at hcode
      simp [kindsPastChecks, hcode] at hkind
  case outOfRange =>
    rw [exec_of_not_rangeOk hbad] at ht
    cases ht
    exact statusErr_errorStatus .operandRange _

end Sys2Proof.Proofs
end

section
/-! SUPPORT. What one step can do to `STATUS`, said once for every event and for the core at rest (spec/10_state.md R20,
R42, spec/20_memory.md R64, spec/60_exceptions.md R236): every write of it but reset's is an issue or a completion. -/

namespace Sys2Proof.Machine

/-- `STATUS` before and after a step that is not a reset. -/
inductive StatusMove (st : CmdWord) : CmdWord → Prop
  | unchanged : StatusMove st st
  | issue (hbusy : statusBusy st = false) (hfatal : statusFatal st = false) : StatusMove st (issueStatus st)
  | success : StatusMove st (successStatus st)
  | error (kind : ErrorKind) : StatusMove st (errorStatus kind st)

/-- Outside reset `FATAL` never falls: a fatal core issues nothing, and a completion leaves the bit or, with `INTERNAL`,
sets it (R30, R238). -/
theorem StatusMove.keeps_fatal {st st' : CmdWord} (h : StatusMove st st') (hfatal : statusFatal st = true) :
    statusFatal st' = true := by
  cases h with
  | unchanged => exact hfatal
  | issue _ hnot => simp [hnot] at hfatal
  | success => rw [statusFatal_successStatus, hfatal]
  | error kind => rw [statusFatal_errorStatus, hfatal, Bool.or_true]

section
variable {s t : State}

theorem CompletesWithin.statusMove {ks : List ErrorKind} (h : CompletesWithin ks s (.next t)) :
    StatusMove s.regs.status t.regs.status := by
  cases h with
  | success _ hstatus => exact hstatus ▸ .success
  | error _ _ hregs => exact hregs ▸ .error _

theorem statusMove_hostWrite (num v : Nat) (s : State) :
    StatusMove s.regs.status (hostWrite num v s).regs.status := by
  obtain h | ⟨-, hbusy, hfatal, h⟩ | ⟨reg, -, hwritable, -, -, h⟩ := hostWrite_cases num v s <;> rw [h]
  · exact .unchanged
  · exact .issue hbusy hfatal
  · exact (writeReg_status v s.regs hwritable).symm ▸ .unchanged

theorem portRead_eq_next {num : Nat} (h : portRead num s = .next t) : t = hostRead num s := by
  unfold portRead at h
  split at h <;> cases h
  rfl

theorem portWrite_eq_next {num v : Nat} (h : portWrite num v s = .next t) : t = hostWrite num v s := by
  unfold portWrite at h
  split at h
  · split at h <;> cases h
    rfl
  · cases h

/-- The sequencer has no step with no command in progress; a word that decodes completes as its command does, and any
other word with `ILLEGAL_CMD` (R42, R97). -/
theorem statusMove_completionStep (h : completionStep s = .next t) : StatusMove s.regs.status t.regs.status := by
  unfold completionStep at h
  split at h
  · cases h
    exact .unchanged
  · split at h
    case h_1 i _ => exact (h ▸ completesWithin_exec i s).statusMove
    case h_2 =>
      cases h
      exact .error .illegalCmd

theorem statusMove_atRest (h : atRest s = .next t) : StatusMove s.regs.status t.regs.status := by
  unfold atRest at h
  split at h
  · exact statusMove_completionStep h
  · split at h <;> cases h
    exact .unchanged

theorem statusMove_takeEvent {ev : Event} (hreset : ev ≠ .reset) (h : takeEvent ev s = .next t) :
    StatusMove s.regs.status t.regs.status := by
  cases ev with
  | read num => rw [portRead_eq_next h, hostRead_regs]; exact .unchanged
  | write num v => rw [portWrite_eq_next h]; exact statusMove_hostWrite num v s
  | complete => exact statusMove_completionStep h
  | reset => exact absurd rfl hreset

theorem step_of_no_inputs (h : s.env.inputs = []) : step s = atRest s := by
  simp [step, h]

theorem step_of_inputs {ev : Event} {rest : List Event} (h : s.env.inputs = ev :: rest) :
    step s = takeEvent ev (withInputs rest s) := by
  simp [step, h]

/-- Every step but reset, with an event to come or none. -/
theorem statusMove_step (hreset : s.env.inputs.head? ≠ some .reset) (h : step s = .next t) :
    StatusMove s.regs.status t.regs.status := by
  cases hin : s.env.inputs with
  | nil => exact statusMove_atRest ((step_of_no_inputs hin).symm.trans h)
  | cons ev rest =>
    rw [hin, List.head?_cons, ne_eq, Option.some_inj] at hreset
    rw [step_of_inputs hin] at h
    exact statusMove_takeEvent (s := withInputs rest s) hreset h

end

end Sys2Proof.Machine
end

section
/-! The obligation about reset (spec/70_reset_and_hazards.md R270, R271). -/

namespace Sys2Proof.Proofs
open Sys2Proof.Machine Sys2Proof.Spec

/-- Settles O8: the step at a reset is `resetInput`, which does not look at the phase; and no other step moves `STATUS`
from a fatal value to one that is not. -/
theorem resetActsInAnyPhaseAndAloneClearsFatal : Obligations.ResetActsInAnyPhaseAndAloneClearsFatal := by
  refine ⟨fun s rest hin => ?reset, fun s t hstep hbefore hafter => ?onlyReset⟩
  case reset => exact ⟨resetInput (withInputs rest s), step_of_inputs hin, rfl, rfl, rfl⟩
  case onlyReset =>
    by_contra hreset
    have hfatal := (statusMove_step hreset hstep).keeps_fatal hbefore
    simp [hfatal] at hafter

end Sys2Proof.Proofs
end

section
/-! The obligations about decoding and encoding (spec/30_encoding.md R90, R94 to R97). -/

namespace Sys2Proof.Proofs
open Sys2Proof.Machine Sys2Proof.Spec

/-- Settles O3: the table of R95 lists every command under its own word, and each of its rows decodes as listed. -/
theorem decodeOfEncodeIsIdentity : Obligations.DecodeOfEncodeIsIdentity :=
  fun i _ => decode_of_mem_legalWords (encode_mem_legalWords i)

/-- Settles O4: a decoder arm checks every field its command does not carry, so the fields make up the whole word. -/
theorem encodeOfDecodeIsIdentity : Obligations.EncodeOfDecodeIsIdentity := fun _ _ => encode_of_decode

/-- Settles O1: six rows of the table, and four words that the decoder evaluates to an error. -/
theorem listedWordsDecode : Obligations.ListedWordsDecode := by
  refine ⟨?_, ?_, ?_, ?_, ?_, ?_, by decide, by decide, by decide, by decide⟩
  all_goals exact decode_of_mem_legalWords (by decide)

end Sys2Proof.Proofs
end

section
/-! SUPPORT. What a completion can do to the machine, said once for every command (spec/10_state.md R32, R42,
spec/60_exceptions.md R236): a success writes result registers only, an error none; neither touches the coming
events. -/

namespace Sys2Proof.Machine
open Sys2Proof.Spec

/-! ### The result registers -/

/-- What the success of a command may do to the registers: it writes those of `results` only, and a result `Inf` has
zero coordinates (R26, R32). -/
structure WritesOnly (results : List RegName) (write : Regs → Regs) : Prop where
  frame : ∀ x, ∀ reg ∉ results, readReg (write x) reg = readReg x reg
  resultPoint : ∀ x, resultPointOk x = true → resultPointOk (write x) = true

theorem writesOnly_id : WritesOnly [] id := ⟨fun _ _ _ => rfl, fun _ h => h⟩

theorem writesOnly_writePreset : WritesOnly [.p, .a, .b, .gx, .gy, .n] writePreset where
  frame x reg h := by
    cases reg
    case p | a | b | gx | gy | n => simp at h
    all_goals rfl
  resultPoint _ h := h

theorem writesOnly_writeRes (v : Nat) : WritesOnly [.res] (writeRes v) where
  frame x reg h := by
    cases reg
    case res => simp at h
    all_goals rfl
  resultPoint _ h := h

theorem writesOnly_writeFlag (b : Bool) : WritesOnly [.flag] (writeFlag b) where
  frame x reg h := by
    cases reg
    case flag => simp at h
    all_goals rfl
  resultPoint _ h := h

theorem writesOnly_writeSignature (sig : Nat × Nat) : WritesOnly [.r, .s] (writeSignature sig) where
  frame x reg h := by
    cases reg
    case r | s => simp at h
    all_goals rfl
  resultPoint _ h := h

theorem resultPointOk_writePoint (pt : Point) (x : Regs) : resultPointOk (writePoint pt x) = true := by
  cases pt <;> rfl

theorem writesOnly_writePoint (pt : Point) : WritesOnly [.rx, .ry, .rinf] (writePoint pt) where
  frame x reg h := by
    cases reg
    case rx | ry | rinf => simp at h
    all_goals cases pt <;> rfl
  resultPoint x _ := resultPointOk_writePoint pt x

theorem writesOnly_writeKeyPair (kp : Nat × Point) : WritesOnly [.d, .rx, .ry, .rinf] (writeKeyPair kp) where
  frame x reg h := by
    obtain ⟨hd, hpoint⟩ := not_or.mp (List.mem_cons.not.mp h)
    rw [writeKeyPair, (writesOnly_writePoint kp.2).frame _ reg hpoint]
    exact readReg_writeReg_other kp.1 x hd
  resultPoint _ _ := resultPointOk_writePoint _ _

/-- A register other than `STATUS` does not see a write of `STATUS`. -/
theorem readReg_with_status (x : Regs) (st : CmdWord) {reg : RegName} (h : reg ≠ .status) :
    readReg { x with status := st } reg = readReg x reg := by
  cases reg
  case status => exact absurd rfl h
  all_goals rfl

/-! ### The completion -/

/-- What a completion leaves of the environment: the coming events and the answered reads, and all of it if the command
makes no draw (R44). -/
structure KeepsEnv (draws : Prop) (env env' : Env) : Prop where
  inputs : env'.inputs = env.inputs
  reads : env'.reads = env.reads
  all : ¬ draws → env' = env

theorem KeepsEnv.refl (draws : Prop) (env : Env) : KeepsEnv draws env env := ⟨rfl, rfl, fun _ => rfl⟩

/-- The state a completion leads to from `s`: a success that writes registers of `results` only, or an error. -/
inductive Completes (results : List RegName) (draws : Prop) (s : State) : State → Prop
  | success {write : Regs → Regs} {env : Env} (hwrite : WritesOnly results write) (henv : KeepsEnv draws s.env env) :
      Completes results draws s ⟨{ write s.regs with status := successStatus s.regs.status }, .idle, env⟩
  | error (kind : ErrorKind) {env : Env} (henv : KeepsEnv draws s.env env) :
      Completes results draws s ⟨{ s.regs with status := errorStatus kind s.regs.status }, .idle, env⟩

section
variable {results : List RegName} {draws : Prop} {s t : State}

theorem Completes.phase (h : Completes results draws s t) : t.phase = .idle := by cases h <;> rfl

theorem Completes.keepsEnv (h : Completes results draws s t) : KeepsEnv draws s.env t.env := by
  cases h with
  | success _ henv => exact henv
  | error _ henv => exact henv

theorem Completes.status (h : Completes results draws s t) :
    t.regs.status = successStatus s.regs.status ∨ ∃ kind, t.regs.status = errorStatus kind s.regs.status := by
  cases h with
  | success => exact .inl rfl
  | error kind => exact .inr ⟨kind, rfl⟩

theorem Completes.statusBusy (h : Completes results draws s t) : statusBusy t.regs.status = false := by
  obtain hst | ⟨kind, hst⟩ := h.status <;> simp [hst]

theorem Completes.statusDone (h : Completes results draws s t) : statusDone t.regs.status = true := by
  obtain hst | ⟨kind, hst⟩ := h.status <;> simp [hst]

theorem Completes.frame (h : Completes results draws s t) {reg : RegName} (hreg : reg ∉ results)
    (hstatus : reg ≠ .status) : readReg t.regs reg = readReg s.regs reg := by
  cases h with
  | success hwrite => rw [readReg_with_status _ _ hstatus, hwrite.frame _ reg hreg]
  | error => rw [readReg_with_status _ _ hstatus]

theorem Completes.resultPoint (h : Completes results draws s t) (hpoint : resultPointOk s.regs = true) :
    resultPointOk t.regs = true := by
  cases h with
  | success hwrite => exact hwrite.resultPoint _ hpoint
  | error => exact hpoint

/-- A completion with a value-level outcome, from a state whose registers are those of `s`. -/
theorem completes_complete {α : Type} {write : α → Regs → Regs} {s' : State} (hresults : .status ∉ results)
    (hwrite : ∀ v, WritesOnly results (write v)) (r : Result α) (hregs : s'.regs = s.regs)
    (henv : KeepsEnv draws s.env s'.env) : Completes results draws s (complete write r s') := by
  cases r with
  | ok v =>
    have hstatus : (write v s.regs).status = s.regs.status :=
      BitVec.eq_of_toNat_eq ((hwrite v).frame s.regs .status hresults)
    rw [complete_ok, succeed, hregs, hstatus]
    exact .success (hwrite v) henv
  | error kind =>
    rw [complete_error, raiseError, hregs]
    exact .error kind henv

theorem completes_raiseError (kind : ErrorKind) : Completes results draws s (raiseError kind s) :=
  .error kind (.refl draws s.env)

end

/-! ### Every command -/

/-- The commands that draw (R44). -/
def Draws (i : Instr) : Prop := i = .keygen ∨ i = .sign

theorem status_not_mem_writesOf (i : Instr) : .status ∉ writesOf i := by cases i <;> simp [writesOf]

section
variable {α : Type} {write : α → Regs → Regs} {i : Instr}

/-- A command that draws nothing completes from its own state. -/
theorem completes_of_exec {r : Result α} {s : State} (hexec : exec i s = .next (complete write r s))
    (hwrite : ∀ v, WritesOnly (writesOf i) (write v)) :
    ∃ t, exec i s = .next t ∧ Completes (writesOf i) (Draws i) s t :=
  ⟨_, hexec, completes_complete (status_not_mem_writesOf i) hwrite r rfl (.refl _ _)⟩

/-- A command that draws fails a check before its draw, or completes from the state after it. -/
theorem completes_of_exec_draw {checks : Result EcdsaCtx} {f : EcdsaCtx → Nat → Result α} {s : State}
    (hexec : exec i s = .next (completeWithDraw write checks f s)) (hdraws : Draws i)
    (hwrite : ∀ v, WritesOnly (writesOf i) (write v)) :
    ∃ t, exec i s = .next t ∧ Completes (writesOf i) (Draws i) s t := by
  refine ⟨_, hexec, ?_⟩
  obtain ⟨kind, -, h⟩ | ⟨ec, -, h⟩ := completeWithDraw_cases write checks f s <;> rw [h]
  · exact completes_raiseError kind
  · exact completes_complete (status_not_mem_writesOf i) hwrite _ (drawNonzero_regs _ s)
      ⟨drawNonzero_inputs _ s, drawNonzero_reads _ s, fun hnot => absurd hdraws hnot⟩

end

/-- Every command completes, and writes at most the registers R32 lists for it. -/
theorem completes_exec (i : Instr) (s : State) : ∃ t, exec i s = .next t ∧ Completes (writesOf i) (Draws i) s t := by
  cases i with
  | nop => exact ⟨_, rfl, .success writesOnly_id (.refl _ _)⟩
  | ldk1 => exact ⟨_, rfl, .success writesOnly_writePreset (.refl _ _)⟩
  | fadd | fsub | fmul | finv | fdiv => exact completes_of_exec rfl writesOnly_writeRes
  | oncurve | verify => exact completes_of_exec rfl writesOnly_writeFlag
  | padd | pdbl | smul | pubkey => exact completes_of_exec rfl writesOnly_writePoint
  | keygen => exact completes_of_exec_draw rfl (.inl rfl) writesOnly_writeKeyPair
  | sign => exact completes_of_exec_draw rfl (.inr rfl) writesOnly_writeSignature

theorem completes_of_exec_eq {i : Instr} {s t : State} (h : exec i s = .next t) :
    Completes (writesOf i) (Draws i) s t := by
  obtain ⟨t', ht', hcompletes⟩ := completes_exec i s
  rw [h] at ht'
  cases ht'
  exact hcompletes

end Sys2Proof.Machine
end

section
/-! The obligations about the completion of every command and its frame (spec/10_state.md R32, R42, R44;
spec/60_exceptions.md R230). -/

namespace Sys2Proof.Proofs
open Sys2Proof.Machine Sys2Proof.Spec

/-- Settles O46: a completion ends in `Idle` with the two bits so, and leaves the events and reads. -/
theorem everyCommandCompletes : Obligations.EveryCommandCompletes := by
  intro i s
  obtain ⟨t, ht, h⟩ := completes_exec i s
  exact ⟨t, ht, h.phase, h.statusBusy, h.statusDone, h.keepsEnv.inputs, h.keepsEnv.reads⟩

/-- Settles O51: the frame of a completion, for the write set of the command. -/
theorem commandsWriteOnlyTheirResults : Obligations.CommandsWriteOnlyTheirResults :=
  fun _ _ _ _ ht hreg hstatus => (completes_of_exec_eq ht).frame hreg hstatus

/-- Settles O54: the completion of a command that does not draw leaves the whole environment. -/
theorem onlyKeygenAndSignDraw : Obligations.OnlyKeygenAndSignDraw :=
  fun _ _ _ ht hkeygen hsign => (completes_of_exec_eq ht).keepsEnv.all fun hdraws => hdraws.elim hkeygen hsign

end Sys2Proof.Proofs
end

section
/-! SUPPORT. What one step can do, said once for every event and for the core at rest (spec/10_state.md R20, R42;
spec/20_memory.md R62 to R66, R72). -/

namespace Sys2Proof.Machine
open Sys2Proof.Spec

/-! ### The completion step -/

section
variable {s t : State} {w : CmdWord} {snap : Regs}

theorem completionStep_of_idle (h : s.phase = .idle) : completionStep s = .next s := by
  simp [completionStep, h]

theorem completionStep_of_decodes {i : Instr} (h : s.phase = .busy w snap) (hw : decode w = .ok i) :
    completionStep s = exec i s := by
  simp [completionStep, h, hw]

theorem completionStep_of_illegal {e : DecodeError} (h : s.phase = .busy w snap) (hw : decode w = .error e) :
    completionStep s = .next (raiseError .illegalCmd s) := by
  simp [completionStep, h, hw]

/-- With a command in progress the completion step always ends it: as the command does, or with `ILLEGAL_CMD` (R42,
R97). -/
theorem completionStep_completes (h : s.phase = .busy w snap) :
    ∃ results draws t, completionStep s = .next t ∧ Completes results draws s t := by
  cases hw : decode w with
  | ok i =>
    obtain ⟨t, ht, hcompletes⟩ := completes_exec i s
    exact ⟨_, _, t, (completionStep_of_decodes h hw).trans ht, hcompletes⟩
  | error e => exact ⟨[], False, _, completionStep_of_illegal h hw, completes_raiseError .illegalCmd⟩

end

/-! ### One step -/

section
variable {s : State}

@[simp] theorem withInputs_self (s : State) : withInputs s.env.inputs s = s := rfl

theorem step_of_busy_at_rest {w : CmdWord} {snap : Regs} (h : s.phase = .busy w snap) (hin : s.env.inputs = []) :
    step s = completionStep s := by
  simp [step_of_no_inputs hin, atRest, h]

theorem step_of_complete {rest : List Event} (hin : s.env.inputs = .complete :: rest) :
    step s = completionStep (withInputs rest s) := step_of_inputs hin

/-- The state in which the next event is taken: that event is consumed. -/
abbrev afterInput (s : State) : State := withInputs s.env.inputs.tail s

end

/-- The ways a step leads from `s` to `t`. -/
inductive StepCase (s t : State) : Prop
  /-- Reset (R270). -/
  | reset (hhead : s.env.inputs.head? = some .reset) (ht : t = resetInput (afterInput s))
  /-- A read, a write without effect, a completion event or no event while idle. -/
  | unchanged (hregs : t.regs = s.regs) (hphase : t.phase = s.phase) (hinputs : t.env.inputs = s.env.inputs.tail)
  /-- A write to `CMD` that issues a word (R64). -/
  | issue (v : Nat) (hhead : s.env.inputs.head? = some (.write 0x30 v)) (hbusy : statusBusy s.regs.status = false)
      (hfatal : statusFatal s.regs.status = false) (ht : t = latchCommand (BitVec.ofNat 32 v) (afterInput s))
  /-- A write of another writable register (R63). -/
  | write (reg : RegName) (v : Nat) (hwritable : regWritable reg = true) (hcmd : reg ≠ .cmd)
      (hbusy : statusBusy s.regs.status = false)
      (ht : t = { afterInput s with regs := writeReg s.regs v reg })
  /-- The completion step of the command in progress, by a completion event or because it is owed (R42). -/
  | completion {w : CmdWord} {snap : Regs} (hphase : s.phase = .busy w snap)
      (hstep : completionStep (afterInput s) = .next t)

section
variable {s t : State}

theorem stepCase_hostWrite {num v : Nat} (hhead : s.env.inputs.head? = some (.write num v)) :
    StepCase s (hostWrite num v (afterInput s)) := by
  obtain h | ⟨rfl, hbusy, hfatal, h⟩ | ⟨reg, -, hwritable, hcmd, hbusy, h⟩ := hostWrite_cases num v (afterInput s)
  · rw [h]
    exact .unchanged rfl rfl rfl
  · exact .issue v hhead hbusy hfatal h
  · exact .write reg v hwritable hcmd hbusy h

theorem stepCase_completionStep (h : completionStep (afterInput s) = .next t) : StepCase s t := by
  cases hphase : s.phase with
  | idle =>
    rw [completionStep_of_idle (s := afterInput s) hphase] at h
    cases h
    exact .unchanged rfl rfl rfl
  | busy w snap => exact .completion hphase h

/-- With no event to come the consumed list is the empty one again. -/
theorem stepCase_atRest (hin : s.env.inputs = []) (h : atRest s = .next t) : StepCase s t := by
  have hself : afterInput s = s := by rw [afterInput, hin, List.tail_nil, ← hin, withInputs_self]
  unfold atRest at h
  split at h
  · exact stepCase_completionStep (hself.symm ▸ h)
  · split at h <;> cases h
    exact .unchanged rfl rfl (by rw [hin, List.tail_nil])

theorem step_cases (h : step s = .next t) : StepCase s t := by
  cases hin : s.env.inputs with
  | nil => exact stepCase_atRest hin ((step_of_no_inputs hin).symm.trans h)
  | cons ev rest =>
    have hhead : s.env.inputs.head? = some ev := by rw [hin, List.head?_cons]
    have hafter : withInputs rest s = afterInput s := by rw [afterInput, hin, List.tail_cons]
    rw [step_of_inputs hin, hafter] at h
    cases ev with
    | read num =>
      rw [portRead_eq_next h]
      exact .unchanged (hostRead_regs ..) (hostRead_phase ..) (hostRead_inputs ..)
    | write num v =>
      rw [portWrite_eq_next h]
      exact stepCase_hostWrite hhead
    | complete => exact stepCase_completionStep h
    | reset =>
      cases h
      exact .reset hhead rfl

/-- The completion step of a busy core is a completion of it. -/
theorem completes_of_completionStep {w : CmdWord} {snap : Regs} (hphase : s.phase = .busy w snap)
    (h : completionStep s = .next t) : ∃ results draws, Completes results draws s t := by
  obtain ⟨results, draws, t', ht', hcompletes⟩ := completionStep_completes hphase
  rw [h] at ht'
  cases ht'
  exact ⟨results, draws, hcompletes⟩

/-- A step consumes the event it takes and no other. -/
theorem inputs_of_step (h : step s = .next t) : t.env.inputs = s.env.inputs.tail := by
  cases step_cases h with
  | reset _ ht => rw [ht]; rfl
  | unchanged _ _ hinputs => exact hinputs
  | issue _ _ _ _ ht => rw [ht]; rfl
  | write _ _ _ _ _ ht => rw [ht]; rfl
  | completion hphase hstep =>
    obtain ⟨_, _, hcompletes⟩ := completes_of_completionStep (s := afterInput s) hphase hstep
    exact hcompletes.keepsEnv.inputs

end

end Sys2Proof.Machine
end

section
/-! SUPPORT. The invariant part by part: each way a step can go keeps it (spec/10_state.md R30, R40, R41, R26;
spec/60_exceptions.md R238). -/

namespace Sys2Proof.Machine
open Sys2Proof.Spec

/-! ### `STATUS` -/

section
variable {st : CmdWord}

theorem statusOk_iff :
    statusOk st = true ↔ (statusBusy st = true → statusDone st = false) ∧ (statusErr st).toNat ≤ 9 ∧
      statusReservedZero st = true ∧
      (statusFatal st = true → statusErr st = 7 ∧ statusDone st = true ∧ statusBusy st = false) := by
  simp only [statusOk, Bool.and_eq_true, Bool.or_eq_true, Bool.not_eq_true', decide_eq_true_eq, beq_iff_eq]
  cases statusBusy st <;> cases statusDone st <;> cases statusFatal st <;> simp [and_assoc]

theorem statusFatal_reset : statusFatal Regs.reset.status = false := by decide

theorem statusOk_issueStatus (h : statusOk st = true) (hfatal : statusFatal st = false) :
    statusOk (issueStatus st) = true := by
  obtain ⟨-, -, hreserved, -⟩ := statusOk_iff.mp h
  rw [statusOk_iff]
  simp [hreserved, hfatal]

theorem statusOk_successStatus (h : statusOk st = true) (hfatal : statusFatal st = false) :
    statusOk (successStatus st) = true := by
  obtain ⟨-, -, hreserved, -⟩ := statusOk_iff.mp h
  rw [statusOk_iff]
  simp [hreserved, hfatal]

/-- `INTERNAL` sets `FATAL` beside its own code 7. -/
theorem statusOk_errorStatus (kind : ErrorKind) (h : statusOk st = true) (hfatal : statusFatal st = false) :
    statusOk (errorStatus kind st) = true := by
  obtain ⟨-, -, hreserved, -⟩ := statusOk_iff.mp h
  rw [statusOk_iff]
  simp only [statusBusy_errorStatus, statusDone_errorStatus, statusErr_errorStatus, statusReservedZero_errorStatus,
    statusFatal_errorStatus, hreserved, hfatal, Bool.or_false, decide_eq_true_eq, and_true, true_and]
  exact ⟨nofun, errorCode_le kind, errorCode_eq_internal.mpr⟩

end

/-! ### The phase -/

section
variable {s t : State}

theorem phaseOk_of_idle (h : s.phase = .idle) : phaseOk s = true ↔ statusBusy s.regs.status = false := by
  simp [phaseOk, h]

/-- Between commands, and only then, `BUSY` is 0 (R40). -/
theorem phase_idle_of_phaseOk (h : phaseOk s = true) (hbusy : statusBusy s.regs.status = false) : s.phase = .idle := by
  cases hphase : s.phase with
  | idle => rfl
  | busy w snap => simp [phaseOk, hphase, hbusy] at h

theorem statusBusy_of_phaseOk {w : CmdWord} {snap : Regs} (h : phaseOk s = true) (hphase : s.phase = .busy w snap) :
    statusBusy s.regs.status = true := by
  by_contra hbusy
  simpa [hphase] using phase_idle_of_phaseOk h (by simpa using hbusy)

theorem phaseOk_latchCommand (w : CmdWord) (s : State) : phaseOk (latchCommand w s) = true := by
  simp [phaseOk, apartFromStatus, latchCommand]

theorem phaseOk_congr (hregs : t.regs = s.regs) (hphase : t.phase = s.phase) : phaseOk t = phaseOk s := by
  rw [phaseOk, phaseOk, hregs, hphase]

end

/-! ### The result point -/

/-- The host can write no result register (R22, R65). -/
theorem resultPointOk_writeReg {reg : RegName} (v : Nat) (x : Regs) (h : regWritable reg = true) :
    resultPointOk (writeReg x v reg) = resultPointOk x := by
  cases reg
  case rx | ry | rinf => simp [regWritable] at h
  all_goals rfl

/-! ### The invariant -/

section
variable {s t : State}

theorem inv_reset : Inv State.reset := by decide +kernel

/-- The invariant speaks of the registers and the phase alone. -/
theorem inv_congr (hregs : t.regs = s.regs) (hphase : t.phase = s.phase) (h : Inv s) : Inv t := by
  obtain ⟨hstatus, hphaseOk, hpoint⟩ := h
  exact ⟨hregs ▸ hstatus, phaseOk_congr hregs hphase ▸ hphaseOk, hregs ▸ hpoint⟩

/-- A core with the invariant and a command in progress is not fatal. -/
theorem statusFatal_of_inv_of_busy {w : CmdWord} {snap : Regs} (h : Inv s) (hphase : s.phase = .busy w snap) :
    statusFatal s.regs.status = false := by
  obtain ⟨hstatus, hphaseOk, -⟩ := h
  obtain ⟨-, -, -, hfatal⟩ := statusOk_iff.mp hstatus
  have hbusy := statusBusy_of_phaseOk hphaseOk hphase
  by_contra hset
  simp [hbusy] at hfatal
  exact hset hfatal

theorem inv_latchCommand (w : CmdWord) (h : Inv s) (hfatal : statusFatal s.regs.status = false) :
    Inv (latchCommand w s) :=
  ⟨statusOk_issueStatus h.1 hfatal, phaseOk_latchCommand w s, h.2.2⟩

theorem inv_of_write {reg : RegName} (v : Nat) (h : Inv s) (hwritable : regWritable reg = true)
    (hbusy : statusBusy s.regs.status = false) (hregs : t.regs = writeReg s.regs v reg) (hphase : t.phase = s.phase) :
    Inv t := by
  obtain ⟨hstatus, hphaseOk, hpoint⟩ := h
  have hst : t.regs.status = s.regs.status := by rw [hregs, writeReg_status v s.regs hwritable]
  refine ⟨hst ▸ hstatus, ?_, ?_⟩
  · rw [phaseOk_of_idle (hphase.trans (phase_idle_of_phaseOk hphaseOk hbusy)), hst, hbusy]
  · rw [hregs, resultPointOk_writeReg v s.regs hwritable, hpoint]

theorem inv_of_completes {results : List RegName} {draws : Prop} (h : Inv s)
    (hfatal : statusFatal s.regs.status = false) (ht : Completes results draws s t) : Inv t := by
  obtain ⟨hstatus, -, hpoint⟩ := h
  refine ⟨?_, (phaseOk_of_idle ht.phase).mpr ht.statusBusy, ht.resultPoint hpoint⟩
  obtain hst | ⟨kind, hst⟩ := ht.status <;> rw [hst]
  · exact statusOk_successStatus hstatus hfatal
  · exact statusOk_errorStatus kind hstatus hfatal

end

end Sys2Proof.Machine
end

section
/-! The obligations about the invariant, `FATAL` and `done` (spec/10_state.md R30, R40, R45; spec/60_exceptions.md R238,
R245). -/

namespace Sys2Proof.Proofs
open Sys2Proof.Machine Sys2Proof.Spec

/-- Settles O10: every part evaluates to true. -/
theorem resetMeetsTheInvariant : Obligations.ResetMeetsTheInvariant := inv_reset

/-- Settles O11: one lemma for each way a step can go. -/
theorem everyStepKeepsTheInvariant : Obligations.EveryStepKeepsTheInvariant := by
  intro s t hinv hstep
  cases step_cases hstep with
  | reset _ ht => exact ht ▸ inv_congr (s := State.reset) rfl rfl inv_reset
  | unchanged hregs hphase => exact inv_congr hregs hphase hinv
  | issue v _ _ hfatal ht => exact ht ▸ inv_latchCommand (s := afterInput s) _ hinv hfatal
  | write reg v hwritable _ hbusy ht => exact ht ▸ inv_of_write v hinv hwritable hbusy rfl rfl
  | completion hphase hcompletion =>
    obtain ⟨_, _, hcompletes⟩ := completes_of_completionStep (s := afterInput s) hphase hcompletion
    exact inv_of_completes (s := afterInput s) hinv (statusFatal_of_inv_of_busy hinv hphase) hcompletes

/-- Settles O12: a fatal core issues nothing and has no command in progress, so a step leaves its registers or writes
one that is not `STATUS` or `CMD`; and only an error completion sets `FATAL`, by the kind `INTERNAL`. -/
theorem fatalIsStickyAndOnlyInternalSetsIt : Obligations.FatalIsStickyAndOnlyInternalSetsIt := by
  refine ⟨fun s t hinv hfatal hstep hreset => ?sticky, fun s t hstep hbefore hafter => ?onlyInternal⟩
  case sticky =>
    obtain ⟨-, -, -, hfields⟩ := statusOk_iff.mp hinv.1
    obtain ⟨herr, hdone, hbusy⟩ := hfields hfatal
    have hidle := phase_idle_of_phaseOk hinv.2.1 hbusy
    have hkept : t.regs.status = s.regs.status ∧ t.regs.cmd = s.regs.cmd ∧ t.phase = .idle := by
      cases step_cases hstep with
      | reset hhead => exact absurd hhead hreset
      | unchanged hregs hphase => exact ⟨by rw [hregs], by rw [hregs], hphase.trans hidle⟩
      | issue _ _ _ hnot => simp [hfatal] at hnot
      | write reg v hwritable hcmd _ ht =>
        have hcmd' := readReg_writeReg_other v s.regs (reg := reg) (reg' := .cmd) (Ne.symm hcmd)
        rw [ht]
        exact ⟨writeReg_status v s.regs hwritable, BitVec.eq_of_toNat_eq hcmd', hidle⟩
      | completion hphase => simp [hidle] at hphase
    obtain ⟨hstatus, hcmd, hphase⟩ := hkept
    exact ⟨hstatus, hcmd, hphase, hstatus ▸ herr, hstatus ▸ hdone⟩
  case onlyInternal =>
    cases step_cases hstep with
    | reset _ ht => simp [ht, statusFatal_reset] at hafter
    | unchanged hregs => simp [hregs, hbefore] at hafter
    | issue _ _ _ _ ht => simp [ht, hbefore] at hafter
    | write _ v hwritable _ _ ht => simp [ht, writeReg_status v s.regs hwritable, hbefore] at hafter
    | @completion w snap hphase hcompletion =>
      obtain ⟨_, _, hcompletes⟩ := completes_of_completionStep (s := afterInput s) hphase hcompletion
      refine ⟨⟨w, snap, hphase⟩, ?_, hcompletes.phase⟩
      obtain hst | ⟨kind, hst⟩ := hcompletes.status
      · simp [hst, hbefore] at hafter
      · have hkind : kind = .internal := by simpa [hst, hbefore] using hafter
        rw [hst, statusErr_errorStatus, hkind]
        rfl

/-- Settles O13: a completion sets `DONE`, and of the other steps only an issue and a reset clear it. -/
theorem doneRisesAtCompletionAndFallsAtIssueOrReset : Obligations.DoneRisesAtCompletionAndFallsAtIssueOrReset := by
  refine ⟨fun s => rfl, fun s t w snap rest hphase hin hstep => ?rises, fun s t hstep hbefore hafter => ?falls⟩
  case rises =>
    rw [step_of_complete hin] at hstep
    obtain ⟨_, _, hcompletes⟩ := completes_of_completionStep (s := withInputs rest s) hphase hstep
    exact hcompletes.statusDone
  case falls =>
    rw [doneOutput] at hbefore hafter
    cases step_cases hstep with
    | reset hhead => exact .inr hhead
    | unchanged hregs => simp [hregs, hbefore] at hafter
    | issue v hhead => exact .inl ⟨v, hhead⟩
    | write _ v hwritable _ _ ht => simp [ht, writeReg_status v s.regs hwritable, hbefore] at hafter
    | completion hphase hcompletion =>
      obtain ⟨_, _, hcompletes⟩ := completes_of_completionStep (s := afterInput s) hphase hcompletion
      simp [hcompletes.statusDone] at hafter

end Sys2Proof.Proofs
end

section
/-! SUPPORT. When a step is possible: a host access that exists on the port, a completion and a reset always are, and a
core with a command in progress always has its completion step (spec/10_state.md R42, spec/20_memory.md R63, R66). -/

namespace Sys2Proof.Machine
open Sys2Proof.Spec

theorem run_succ_of_step (M : Host.Core) (k : Nat) {s t : M.State} (h : M.step s = .next t) :
    M.run (k + 1) s = M.run k t := by
  rw [Host.Core.run, h]

/-- Every mapped number exists on the port (R60). -/
theorem onPort_regNumber (reg : RegName) : onPort (regNumber reg) = true := by cases reg <;> rfl

section
variable {s t : State}

theorem completionStep_next (s : State) : ∃ t, completionStep s = .next t := by
  cases hphase : s.phase with
  | idle => exact ⟨s, completionStep_of_idle hphase⟩
  | busy w snap =>
    obtain ⟨_, _, t, ht, -⟩ := completionStep_completes hphase
    exact ⟨t, ht⟩

theorem takeEvent_next {ev : Event} (h : ev.wf = true) (s : State) : ∃ t, takeEvent ev s = .next t := by
  cases ev with
  | read num => exact ⟨_, if_pos h⟩
  | write num v =>
    obtain ⟨hport, hfits⟩ := Bool.and_eq_true_iff.mp h
    exact ⟨_, (if_pos hport).trans (if_pos hfits)⟩
  | complete => exact completionStep_next s
  | reset => exact ⟨_, rfl⟩

theorem step_next_of_inputs {ev : Event} {rest : List Event} (hin : s.env.inputs = ev :: rest)
    (hok : inputsOk s = true) : ∃ t, step s = .next t := by
  have hwf : ev.wf = true := List.all_eq_true.mp hok ev (hin ▸ List.mem_cons_self)
  rw [step_of_inputs hin]
  exact takeEvent_next hwf _

theorem inputsOk_of_step (hok : inputsOk s = true) (h : step s = .next t) : inputsOk t = true := by
  rw [inputsOk, inputs_of_step h]
  exact List.all_eq_true.mpr fun ev hev => List.all_eq_true.mp hok ev (List.mem_of_mem_tail hev)

/-- A step to an idle core ends the run, any other leaves one event less to come: induction on the events. -/
theorem run_reaches_idle (s : State) (hbusy : s.phase ≠ .idle) (hok : inputsOk s = true) :
    ∃ k t, k ≤ s.env.inputs.length + 1 ∧ Sys2Proof.core.run k s = .next t ∧ t.phase = .idle := by
  induction hin : s.env.inputs generalizing s with
  | nil =>
    cases hphase : s.phase with
    | idle => exact absurd hphase hbusy
    | busy w snap =>
      obtain ⟨_, _, t, ht, hcompletes⟩ := completionStep_completes hphase
      exact ⟨1, t, le_rfl, run_succ_of_step core 0 ((step_of_busy_at_rest hphase hin).trans ht), hcompletes.phase⟩
  | cons ev rest ih =>
    obtain ⟨s', hstep⟩ := step_next_of_inputs hin hok
    by_cases hidle : s'.phase = .idle
    · exact ⟨1, s', by simp, run_succ_of_step core 0 hstep, hidle⟩
    · have hin' : s'.env.inputs = rest := by rw [inputs_of_step hstep, hin, List.tail_cons]
      obtain ⟨k, t, hk, hrun, ht⟩ := ih s' hidle (inputsOk_of_step hok hstep) hin'
      exact ⟨k + 1, t, by simpa using hk, (run_succ_of_step core k hstep).trans hrun, ht⟩

end

end Sys2Proof.Machine
end

section
/-! The obligations about steps, `STATUS` and the end of a run (spec/10_state.md R30, R42; spec/20_memory.md R63, R66;
spec/30_encoding.md R97; spec/70_reset_and_hazards.md R285). -/

namespace Sys2Proof.Proofs
open Sys2Proof.Machine Sys2Proof.Spec

/-- Settles O5: the completion step decodes the latched word, and the word of `withFetchWord` is the one given. -/
theorem stepRunsTheLatchedCommand : Obligations.StepRunsTheLatchedCommand := by
  refine ⟨fun s w snap i hphase hw => ⟨fun hin => ?owed, fun rest hin => ?event⟩, fun s w i hw => ?fetched⟩
  case owed => rw [step_of_busy_at_rest hphase hin, completionStep_of_decodes hphase hw]
  case event => rw [step_of_complete hin, completionStep_of_decodes (s := withInputs rest s) hphase hw]
  case fetched =>
    have hword : tableWord 32 w.toNat = w := by
      rw [tableWord, Nat.mod_eq_of_lt w.isLt, BitVec.ofNat_toNat, BitVec.setWidth_eq]
    have hissue : issueStatus 0 = 1 := by decide
    rw [State.withFetchWord, hword, step_of_complete rfl, completionStep_of_decodes (snap := _) rfl hw]
    simp only [commandNext, latchCommand, withInputs, hissue]

/-- Settles O6: the word is latched like any other, and the completion step of a word that does not decode is the error
`ILLEGAL_CMD`. -/
theorem illegalWordEndsWithIllegalCmd : Obligations.IllegalWordEndsWithIllegalCmd := by
  intro s w e hw
  refine ⟨fun rest hbusy hfatal hin => ?issued, fun snap hphase => ⟨fun hin => ?owed, fun rest hin => ?event⟩⟩
  case issued =>
    have hissue : step s = .next (latchCommand w (withInputs (.complete :: rest) s)) := by
      rw [step_write_cmd w.isLt hin hbusy, BitVec.ofNat_toNat, BitVec.setWidth_eq,
        issue_of_not_fatal w (by simpa using hfatal)]
    have hend := (step_of_complete rfl).trans (completionStep_of_illegal
      (s := withInputs rest (latchCommand w (withInputs (.complete :: rest) s))) rfl hw)
    refine ⟨_, _, hissue, rfl, ?_, hend, rfl, rfl, ?_, ?_, ?_, ?_, rfl⟩
    · exact statusBusy_issueStatus _
    · exact statusErr_errorStatus .illegalCmd _
    · exact statusDone_errorStatus .illegalCmd _
    · exact statusBusy_errorStatus .illegalCmd _
    · simpa using hfatal
  case owed => exact (step_of_busy_at_rest hphase hin).trans (completionStep_of_illegal hphase hw)
  case event =>
    exact (step_of_complete hin).trans (completionStep_of_illegal (s := withInputs rest s) hphase hw)

/-- Settles O9: the bits of an issue, a completion and an error, in the order the statement lists their cases. -/
theorem statusUpdatesAreBitwise : Obligations.StatusUpdatesAreBitwise := by
  refine ⟨fun st => ⟨rfl, rfl, rfl, fun i hi => ?code⟩, fun st j => ?issue, fun st j => ?success,
    fun kind st j => ?error, rfl, rfl, rfl, rfl, rfl, rfl, rfl, rfl, rfl⟩
  case code => simp [statusErr, hi]
  case issue => rw [getLsbD_issueStatus, ite_or]
  case success =>
    rw [successStatus, getLsbD_completedStatus]
    by_cases h0 : j = 0 <;> simp [h0]
  case error =>
    rw [getLsbD_errorStatus, getLsbD_completedStatus]
    by_cases h2 : j = 2
    · simp [h2]
    · by_cases h0 : j = 0 <;> simp [h2, h0]

/-- Settles O14: the induction on the events to come of `run_reaches_idle`. -/
theorem busyCommandCompletesWithinItsInputs : Obligations.BusyCommandCompletesWithinItsInputs := run_reaches_idle

/-- Settles O15: with an event to come there is a step, and with none only an idle core with `FATAL = 1` has none. -/
theorem wellFormedRunsStopOnlyWhenFatalAtRest : Obligations.WellFormedRunsStopOnlyWhenFatalAtRest := by
  intro s hok
  have hnext (h : ∃ t, step s = .next t) : ∃ t, step s = .next t ∧ inputsOk t = true :=
    h.imp fun t ht => ⟨ht, inputsOk_of_step hok ht⟩
  cases hin : s.env.inputs with
  | cons ev rest => exact .inl (hnext (step_next_of_inputs hin hok))
  | nil =>
    cases hphase : s.phase with
    | busy w snap => exact .inl (hnext (step_of_busy_at_rest hphase hin ▸ completionStep_next s))
    | idle =>
      have hrest : step s = if statusFatal s.regs.status then .fault .fatalAtRest else .next s := by
        rw [step_of_no_inputs hin, atRest, hphase]
      by_cases hfatal : statusFatal s.regs.status = true
      · exact .inr ⟨hrest.trans (if_pos hfatal), rfl, rfl, hfatal⟩
      · exact .inl (hnext ⟨s, hrest.trans (if_neg hfatal)⟩)

/-- Settles O20: the port checks the number before the value, and a mapped number is on the port. -/
theorem accessesThatDoNotExistStop : Obligations.AccessesThatDoNotExistStop := by
  intro s num v rest
  have hoff (hnum : 0x3F < num) : onPort num ≠ true := by simpa [onPort] using hnum
  refine ⟨fun hnum hin => ?read, fun hnum hin => ?write, fun reg hreg hv hin => ?wide⟩ <;> rw [step_of_inputs hin]
  case read => exact if_neg (hoff hnum)
  case write => exact if_neg (hoff hnum)
  case wide =>
    have hon : onPort num = true := regNumber_of_regAt hreg ▸ onPort_regNumber reg
    have hfits : fitsRegister num v ≠ true := by simpa [fitsRegister, hreg] using hv
    exact (if_pos hon).trans (if_neg hfits)

end Sys2Proof.Proofs
end

section
/-! SUPPORT. Two states whose draws come out the same: a listed answer and its residue (log entry 6), and a draw left to
the free value and the answer it stands for (spec/10_state.md R44, spec/42_ecdsa.md R184). -/

namespace Sys2Proof.Machine
open Sys2Proof.Spec

section
variable {s : State} {n v : Nat} {rest : List RngAnswer}

theorem drawNonzero_of_residue (h : s.env.rng = .value v :: rest) :
    drawNonzero n (withRng (.value (v % n) :: rest) s) = drawNonzero n s := by
  by_cases hv : v % n = 0
  · rw [drawNonzero_of_rejected h hv, drawNonzero_of_rejected rfl (by rw [Nat.mod_mod, hv])]
    rfl
  · rw [drawNonzero_of_accepted h hv, drawNonzero_of_accepted rfl (by rwa [Nat.mod_mod]), Nat.mod_mod]
    rfl

theorem drawNonzero_of_no_answer (h : s.env.rng = []) :
    drawNonzero n s = (freeDraw n s.env.draws, withRng [] (afterFreeDraw s)) := by
  rw [drawNonzero, h]
  rfl

/-- The free outcome is that of one answer, the failure or a number in range. -/
theorem drawNonzero_free (hn : 2 ≤ n) (h : s.env.rng = []) :
    ∃ ans, (ans = .failure ∨ ∃ v, ans = .value v ∧ 1 ≤ v ∧ v < n) ∧
      drawNonzero n (withRng [ans] (afterFreeDraw s)) = drawNonzero n s := by
  obtain hfree | ⟨v, h1, hlt, hfree⟩ := freeDraw_cases s.env.draws hn
  · refine ⟨.failure, .inl rfl, ?_⟩
    rw [drawNonzero_of_failure rfl, drawNonzero_of_no_answer h, hfree]
    rfl
  · have hmod : v % n = v := Nat.mod_eq_of_lt hlt
    refine ⟨.value v, .inr ⟨v, rfl, h1, hlt⟩, ?_⟩
    rw [drawNonzero_of_accepted rfl (by omega), drawNonzero_of_no_answer h, hfree, hmod]
    rfl

end

theorem latched_withRng (l : List RngAnswer) (s : State) : latched (withRng l s) = latched s := rfl

/-- A command that draws reads its operands from the latched registers and everything else from its draw. -/
theorem exec_congr_draw {i : Instr} {s s' : State} (hi : Draws i) (hin : DrawIn (latched s))
    (hlatched : latched s' = latched s)
    (hdraw : drawNonzero (latched s).n.toNat s' = drawNonzero (latched s).n.toNat s) : exec i s' = exec i s := by
  have hcompletion {α : Type} (write : α → Regs → Regs) (f : EcdsaCtx → Nat → Result α) :
      drawCompletion write f s' = drawCompletion write f s := by
    rw [drawCompletion_of_drawIn (hlatched ▸ hin), drawCompletion_of_drawIn hin, hlatched, hdraw]
  obtain rfl | rfl := hi
  · exact hcompletion _ _
  · rw [exec_sign, exec_sign, hlatched, hcompletion]

end Sys2Proof.Machine
end

section
/-! The obligations about the answers of the random port (spec/10_state.md R44, spec/42_ecdsa.md R184; log entries 6
and 7). -/

namespace Sys2Proof.Proofs
open Sys2Proof.Machine Sys2Proof.Spec

/-- Settles O42: an answer and its residue draw the same. -/
theorem listedAnswersAreTakenModuloTheBound : Obligations.ListedAnswersAreTakenModuloTheBound := by
  intro i s v rest hi hin hrng
  exact (exec_congr_draw hi hin (latched_withRng _ s) (drawNonzero_of_residue hrng)).symm

/-- Settles O43: the answer is the one `drawNonzero_free` finds. -/
theorem freeDrawIsAFailureOrInRange : Obligations.FreeDrawIsAFailureOrInRange := by
  intro i s hi hin hrng
  obtain ⟨ans, hans, hdraw⟩ := drawNonzero_free hin.2.2 hrng
  exact ⟨ans, hans, (exec_congr_draw hi hin (latched_withRng _ (afterFreeDraw s)) hdraw).symm⟩

end Sys2Proof.Proofs
end

section
/-! SUPPORT. What a command takes from the latched registers: its operands, as the functions of Machine/Operands.lean
read them. Two snapshots that give the same operands give the same completion (spec/10_state.md R32, R41). -/

namespace Sys2Proof.Machine
open Sys2Proof.Spec

/-- Two register files give a command the same operands. -/
def SameOperands (x y : Regs) : Instr → Prop
  | .nop | .ldk1 => True
  | .fadd ma mb | .fsub ma mb | .fmul ma mb | .fdiv ma mb => fprelude ma mb x = fprelude ma mb y
  | .finv mb => finvOperand mb x = finvOperand mb y
  | .oncurve | .pdbl => ctx x = ctx y ∧ point1 x = point1 y
  | .padd => ctx x = ctx y ∧ point1 x = point1 y ∧ point2 x = point2 y
  | .smul => ctx x = ctx y ∧ point1 x = point1 y ∧ x.k = y.k
  | .pubkey => ctx x = ctx y ∧ basept x = basept y ∧ x.d = y.d
  | .keygen => ectxDraw x = ectxDraw y
  | .sign => ectxDraw x = ectxDraw y ∧ x.d = y.d ∧ x.e = y.e
  | .verify => ectx x = ectx y ∧ point2 x = point2 y ∧ x.e = y.e ∧ x.r = y.r ∧ x.s = y.s

/-- The state busy with another snapshot. -/
abbrev withSnapshot (w : CmdWord) (x : Regs) (s : State) : State := { s with phase := .busy w x }

section
variable {α : Type} {write : α → Regs → Regs} {s : State} {w : CmdWord} {x : Regs}

/-- A completion forgets the phase, and the snapshot with it. -/
theorem complete_withSnapshot (r : Result α) : complete write r (withSnapshot w x s) = complete write r s := by
  cases r <;> rfl

theorem fieldCompletion_withSnapshot {g : Nat → Nat → Nat → Result Nat} {ma mb : ModSel}
    (h : fprelude ma mb (latched s) = fprelude ma mb x) :
    fieldCompletion g ma mb (withSnapshot w x s) = fieldCompletion g ma mb s := by
  rw [fieldCompletion, latched_of_busy rfl, ← h, complete_withSnapshot, fieldCompletion]

theorem curveCompletion_withSnapshot {g : Curve → Point → Result α} {read : Regs → Result Point}
    (hctx : ctx (latched s) = ctx x) (hread : read (latched s) = read x) :
    curveCompletion write read g (withSnapshot w x s) = curveCompletion write read g s := by
  rw [curveCompletion, latched_of_busy rfl, ← hctx, ← hread, complete_withSnapshot, curveCompletion]

theorem drawCompletion_withSnapshot {f : EcdsaCtx → Nat → Result α} (h : ectxDraw (latched s) = ectxDraw x) :
    drawCompletion write f (withSnapshot w x s) = drawCompletion write f s := by
  rw [drawCompletion, latched_of_busy rfl, ← h, drawCompletion]
  cases ectxDraw (latched s) with
  | error kind => rfl
  | ok ec => exact congrArg Host.Outcome.next (complete_withSnapshot (s := (drawNonzero ec.n s).2) _)

theorem exec_of_sameOperands {i : Instr} (h : SameOperands (latched s) x i) :
    exec i (withSnapshot w x s) = exec i s := by
  cases i with
  | nop | ldk1 => rfl
  | fadd ma mb => rw [exec_fadd, exec_fadd, fieldCompletion_withSnapshot h]
  | fsub ma mb => rw [exec_fsub, exec_fsub, fieldCompletion_withSnapshot h]
  | fmul ma mb => rw [exec_fmul, exec_fmul, fieldCompletion_withSnapshot h]
  | fdiv ma mb => rw [exec_fdiv, exec_fdiv, fieldCompletion_withSnapshot h]
  | finv mb =>
    have hoperand : finvOperand mb (latched s) = finvOperand mb x := h
    rw [exec_finv, latched_of_busy rfl, ← hoperand, complete_withSnapshot, exec_finv]
  | oncurve | pdbl => exact curveCompletion_withSnapshot h.1 h.2
  | padd =>
    obtain ⟨hctx, h1, h2⟩ := h
    rw [exec_padd, exec_padd, latched_of_busy rfl, ← h2, curveCompletion_withSnapshot hctx h1]
  | smul =>
    obtain ⟨hctx, h1, hk⟩ := h
    rw [exec_smul, exec_smul, latched_of_busy rfl, ← hk, curveCompletion_withSnapshot hctx h1]
  | pubkey =>
    obtain ⟨hctx, hbase, hd⟩ := h
    rw [exec_pubkey, exec_pubkey, latched_of_busy rfl, ← hd, curveCompletion_withSnapshot hctx hbase]
  | keygen => exact drawCompletion_withSnapshot h
  | sign =>
    obtain ⟨hectx, hd, he⟩ := h
    rw [exec_sign, exec_sign, latched_of_busy rfl, ← hd, ← he, drawCompletion_withSnapshot hectx]
  | verify =>
    obtain ⟨hectx, h2, he, hr, hs⟩ := h
    rw [exec_verify, exec_verify, latched_of_busy rfl, complete_withSnapshot, verifyCommand, verifyCommand, ← hectx,
      ← h2, ← he, ← hr, ← hs]

end

/-! ### The registers read -/

section
variable {x y : Regs}

theorem ctx_congr (hp : x.p = y.p) (ha : x.a = y.a) (hb : x.b = y.b) : ctx x = ctx y := by
  rw [ctx, ctx, hp, ha, hb]

theorem point1_congr (hp : x.p = y.p) (hx : x.x1 = y.x1) (hy : x.y1 = y.y1) (htag : x.inf1 = y.inf1) :
    point1 x = point1 y := by
  rw [point1, point1, hp, hx, hy, htag]

theorem point2_congr (hp : x.p = y.p) (hx : x.x2 = y.x2) (hy : x.y2 = y.y2) (htag : x.inf2 = y.inf2) :
    point2 x = point2 y := by
  rw [point2, point2, hp, hx, hy, htag]

theorem basept_congr (hp : x.p = y.p) (hx : x.gx = y.gx) (hy : x.gy = y.gy) : basept x = basept y := by
  rw [basept, basept, hp, hx, hy]

theorem ectx_congr (hp : x.p = y.p) (ha : x.a = y.a) (hb : x.b = y.b) (hx : x.gx = y.gx) (hy : x.gy = y.gy)
    (hn : x.n = y.n) : ectx x = ectx y := by
  rw [ectx, ectx, ctx_congr hp ha hb, basept_congr hp hx hy, hn]

theorem ectxDraw_congr (h : ectx x = ectx y) : ectxDraw x = ectxDraw y := by rw [ectxDraw, ectxDraw, h]

/-- The register a selector names (R94). -/
theorem modulus_eq_readReg (x : Regs) (sel : ModSel) : modulus x sel = readReg x (if sel = .p then .p else .n) := by
  cases sel <;> rfl

theorem fprelude_congr {ma mb : ModSel} (ha : x.opa = y.opa) (hb : x.opb = y.opb) (hma : modulus x ma = modulus y ma)
    (hmb : modulus x mb = modulus y mb) : fprelude ma mb x = fprelude ma mb y := by
  rw [fprelude, fprelude, ha, hb, hma, hmb]

theorem finvOperand_congr {mb : ModSel} (hb : x.opb = y.opb) (hmb : modulus x mb = modulus y mb) :
    finvOperand mb x = finvOperand mb y := by
  rw [finvOperand, finvOperand, hb, hmb]

/-- The registers R32 lists for a command hold all its operands. -/
theorem sameOperands_of_reads {i : Instr} (h : ∀ reg ∈ readsOf i, readReg x reg = readReg y reg) :
    SameOperands x y i := by
  cases i
  case nop | ldk1 => trivial
  case fadd ma mb | fsub ma mb | fmul ma mb | fdiv ma mb =>
    simp only [readsOf, List.mem_append, List.mem_cons, List.not_mem_nil, or_false, or_imp, forall_and, forall_eq,
      ← modulus_eq_readReg] at h
    obtain ⟨⟨⟨ha, hb⟩, hma⟩, hmb⟩ := h
    exact fprelude_congr (BitVec.eq_of_toNat_eq ha) (BitVec.eq_of_toNat_eq hb) hma hmb
  case finv mb =>
    simp only [readsOf, List.mem_cons, List.not_mem_nil, or_false, forall_eq_or_imp, forall_eq,
      ← modulus_eq_readReg] at h
    obtain ⟨hb, hmb⟩ := h
    exact finvOperand_congr (BitVec.eq_of_toNat_eq hb) hmb
  all_goals
    simp only [readsOf, List.mem_cons, List.not_mem_nil, or_false, forall_eq_or_imp, forall_eq, readReg,
      BitVec.toNat_inj] at h
  case oncurve | pdbl =>
    obtain ⟨hp, ha, hb, hx, hy, htag⟩ := h
    exact ⟨ctx_congr hp ha hb, point1_congr hp hx hy htag⟩
  case padd =>
    obtain ⟨hp, ha, hb, hx1, hy1, htag1, hx2, hy2, htag2⟩ := h
    exact ⟨ctx_congr hp ha hb, point1_congr hp hx1 hy1 htag1, point2_congr hp hx2 hy2 htag2⟩
  case smul =>
    obtain ⟨hp, ha, hb, hx, hy, htag, hk⟩ := h
    exact ⟨ctx_congr hp ha hb, point1_congr hp hx hy htag, hk⟩
  case pubkey =>
    obtain ⟨hp, ha, hb, hx, hy, hd⟩ := h
    exact ⟨ctx_congr hp ha hb, basept_congr hp hx hy, hd⟩
  case keygen =>
    obtain ⟨hp, ha, hb, hx, hy, hn⟩ := h
    exact ectxDraw_congr (ectx_congr hp ha hb hx hy hn)
  case sign =>
    obtain ⟨hp, ha, hb, hx, hy, hn, hd, he⟩ := h
    exact ⟨ectxDraw_congr (ectx_congr hp ha hb hx hy hn), hd, he⟩
  case verify =>
    obtain ⟨hp, ha, hb, hx, hy, hn, he, hr, hs, hx2, hy2, htag2⟩ := h
    exact ⟨ectx_congr hp ha hb hx hy hn, point2_congr hp hx2 hy2 htag2, he, hr, hs⟩

/-! ### Coordinates under a tag -/

theorem pointOf_of_tag {px py : Word} {tag : Bit} {p : Nat} (h : tag = 1) : pointOf px py tag p = .ok .inf := if_pos h

/-- No operand but point operand 1 reads `X1` or `Y1`, and under a tag of 1 it does not either (R26). -/
theorem sameOperands_x1_y1 (i : Instr) (u v : Word) (h : x.inf1 = 1) :
    SameOperands x { x with x1 := u, y1 := v } i := by
  have hpoint : point1 x = point1 { x with x1 := u, y1 := v } := (pointOf_of_tag h).trans (pointOf_of_tag h).symm
  cases i
  case nop | ldk1 => trivial
  case fadd ma mb | fsub ma mb | fmul ma mb | fdiv ma mb => cases ma <;> cases mb <;> rfl
  case finv mb => cases mb <;> rfl
  case oncurve | pdbl => exact ⟨rfl, hpoint⟩
  case padd | smul => exact ⟨rfl, hpoint, rfl⟩
  case pubkey | sign => exact ⟨rfl, rfl, rfl⟩
  case keygen => rfl
  case verify => exact ⟨rfl, rfl, rfl, rfl, rfl⟩

/-- No operand but point operand 2 reads `X2` or `Y2`, and under a tag of 1 it does not either (R26). -/
theorem sameOperands_x2_y2 (i : Instr) (u v : Word) (h : x.inf2 = 1) :
    SameOperands x { x with x2 := u, y2 := v } i := by
  have hpoint : point2 x = point2 { x with x2 := u, y2 := v } := (pointOf_of_tag h).trans (pointOf_of_tag h).symm
  cases i
  case nop | ldk1 => trivial
  case fadd ma mb | fsub ma mb | fmul ma mb | fdiv ma mb => cases ma <;> cases mb <;> rfl
  case finv mb => cases mb <;> rfl
  case oncurve | pdbl => exact ⟨rfl, rfl⟩
  case padd => exact ⟨rfl, rfl, hpoint⟩
  case smul | pubkey | sign => exact ⟨rfl, rfl, rfl⟩
  case keygen => rfl
  case verify => exact ⟨rfl, hpoint, rfl, rfl, rfl⟩

end

end Sys2Proof.Machine
end

section
/-! The obligations about what the outcome of a command depends on (spec/10_state.md R26, R32, R41). -/

namespace Sys2Proof.Proofs
open Sys2Proof.Machine Sys2Proof.Spec

/-- Settles O52: the listed registers hold all the operands, and the operands decide the completion. -/
theorem outcomeDependsOnlyOnTheRegistersRead : Obligations.OutcomeDependsOnlyOnTheRegistersRead := by
  intro i s w snap snap' hphase h
  exact exec_of_sameOperands (latched_of_busy hphase ▸ sameOperands_of_reads h)

/-- Settles O53: a tag of 1 keeps the point operand, and no other operand reads its coordinates. -/
theorem coordinatesUnderATagAreIgnored : Obligations.CoordinatesUnderATagAreIgnored := by
  intro i s w snap u v hphase
  refine ⟨fun htag => exec_of_sameOperands ?_, fun htag => exec_of_sameOperands ?_⟩ <;> rw [latched_of_busy hphase]
  · exact sameOperands_x1_y1 i u v htag
  · exact sameOperands_x2_y2 i u v htag

end Sys2Proof.Proofs
end

section
/-! SUPPORT. The field functions over the integers modulo `m` (spec/40_field.md R123, R129): a residue is a number below
`m`, and over a prime the Fermat power is the inverse. -/

namespace Sys2Proof.Machine
open Sys2Proof.Spec

section
variable {m a b : Nat}

theorem eq_of_natCast_eq (ha : a < m) (hb : b < m) (h : (a : ZMod m) = b) : a = b := by
  simpa [Nat.mod_eq_of_lt, ha, hb] using (ZMod.natCast_eq_natCast_iff' a b m).mp h

theorem natCast_ne_zero_of_lt (ha : a < m) (h0 : a ≠ 0) : (a : ZMod m) ≠ 0 := fun h =>
  h0 (eq_of_natCast_eq ha (Nat.zero_lt_of_lt ha) (h.trans Nat.cast_zero.symm))

/-- Subtraction borrows one modulus (R123). -/
theorem natCast_sub_mod (h : b ≤ m) : (((a + m - b) % m : Nat) : ZMod m) = a - b := by
  rw [ZMod.natCast_mod, Nat.cast_sub (h.trans (Nat.le_add_left m a)), Nat.cast_add, ZMod.natCast_self, add_zero]

theorem natCast_mul_mod (a b m : Nat) : ((a * b % m : Nat) : ZMod m) = a * b := by
  rw [ZMod.natCast_mod, Nat.cast_mul]

/-- R129: by Fermat's little theorem the power is the inverse. -/
theorem natCast_fermat_power [Fact m.Prime] (h : (b : ZMod m) ≠ 0) :
    ((b ^ (m - 2) % m : Nat) : ZMod m) = (b : ZMod m)⁻¹ := by
  have hexp : m - 2 + 1 = m - 1 := by have := (Fact.out : m.Prime).two_le; omega
  rw [ZMod.natCast_mod, Nat.cast_pow]
  refine eq_inv_of_mul_eq_one_left ?_
  rw [← pow_succ, hexp, ZMod.pow_card_sub_one_eq_one h]

/-- A quotient in exact arithmetic modulo a prime. -/
theorem natCast_div_mod [Fact m.Prime] (a : Nat) (h : (b : ZMod m) ≠ 0) :
    ((a * (b ^ (m - 2) % m) % m : Nat) : ZMod m) = a / b := by
  rw [natCast_mul_mod, natCast_fermat_power h, div_eq_mul_inv]

theorem fdiv_prime (hm : m.Prime) (ha : a < m) (hb : b < m) (h0 : b ≠ 0) :
    ∃ q, q < m ∧ fdiv a b m = .ok q ∧ fmul q b m = a := by
  have : Fact m.Prime := ⟨hm⟩
  have hb0 : (b : ZMod m) ≠ 0 := natCast_ne_zero_of_lt hb h0
  refine ⟨_, Nat.mod_lt _ hm.pos, fdiv_of_ne_zero a m h0, ?_⟩
  refine eq_of_natCast_eq (fmul_lt _ _ hm.pos) ha ?_
  rw [fmul, natCast_mul_mod, natCast_div_mod a hb0, div_mul_cancel₀ _ hb0]

end

end Sys2Proof.Machine
end

section
/-! The obligation about the laws of the field functions (spec/40_field.md R130). -/

namespace Sys2Proof.Proofs
open Sys2Proof.Machine Sys2Proof.Spec

/-- Settles O29: reducing early or late gives the same residue, and over a prime the quotient is `fdiv_prime`'s. -/
theorem fieldFunctionsObeyTheFieldLaws : Obligations.FieldFunctionsObeyTheFieldLaws := by
  intro m a b c hm ha hb hc
  refine ⟨?addComm, ?addAssoc, Nat.mod_eq_of_lt ha, fsub_self_eq_zero a m, ?subAdd, ?mulComm, ?mulAssoc, ?mulOne,
    fdiv_zero a m, fun hprime h0 => fdiv_prime hprime ha hb h0⟩
  case addComm => rw [fadd, fadd, Nat.add_comm]
  case addAssoc => rw [fadd, fadd, fadd, fadd, Nat.mod_add_mod, Nat.add_mod_mod, Nat.add_assoc]
  case subAdd =>
    rw [fadd, fsub, Nat.mod_add_mod, Nat.sub_add_cancel (by omega), Nat.add_mod_right, Nat.mod_eq_of_lt ha]
  case mulComm => rw [fmul, fmul, Nat.mul_comm]
  case mulAssoc => rw [fmul, fmul, fmul, fmul, Nat.mod_mul_mod, Nat.mul_mod_mod, Nat.mul_assoc]
  case mulOne => rw [fmul, Nat.mul_mod_mod, Nat.mul_one, Nat.mod_eq_of_lt ha]

end Sys2Proof.Proofs
end

section
/-! SUPPORT. The curve functions over the integers modulo a prime `p` (spec/41_curve.md R152 to R154): chord and tangent
are the addition formulas of Mathlib's Weierstrass curves, on the curve whether or not it is singular. -/

namespace Sys2Proof.Machine
open Sys2Proof.Spec

/-- The affine point with these coordinates, reduced. -/
def affOf {p : Nat} (x y : ZMod p) : Point := .aff x.val y.val

theorem aff_eq_affOf {p x y : Nat} (h : Reduced p (.aff x y)) : Point.aff x y = affOf (x : ZMod p) (y : ZMod p) := by
  rw [affOf, ZMod.val_natCast, ZMod.val_natCast, Nat.mod_eq_of_lt h.1, Nat.mod_eq_of_lt h.2]

section
variable {c : Curve}

theorem onCurve_aff_iff_equation {x y : Nat} :
    OnCurve c (.aff x y) ↔ (weierstrass c).Equation (x : ZMod c.p) (y : ZMod c.p) := by
  rw [OnCurve, ← ZMod.natCast_eq_natCast_iff', WeierstrassCurve.Affine.equation_iff]
  simp [weierstrass]

variable [Fact c.p.Prime]

theorem reduced_affOf (x y : ZMod c.p) : Reduced c.p (affOf x y) := ⟨x.val_lt, y.val_lt⟩

theorem onCurve_affOf_iff_equation {x y : ZMod c.p} : OnCurve c (affOf x y) ↔ (weierstrass c).Equation x y := by
  rw [affOf, onCurve_aff_iff_equation, ZMod.natCast_zmod_val, ZMod.natCast_zmod_val]

/-! ### Mathlib's formulas on a short Weierstrass curve -/

theorem negY_weierstrass (x y : ZMod c.p) : (weierstrass c).negY x y = -y := by
  simp [WeierstrassCurve.Affine.negY, weierstrass]

theorem addX_weierstrass (x₁ x₂ l : ZMod c.p) : (weierstrass c).addX x₁ x₂ l = l ^ 2 - x₁ - x₂ := by
  simp [WeierstrassCurve.Affine.addX, weierstrass]

theorem addY_weierstrass (x₁ x₂ y₁ l : ZMod c.p) :
    (weierstrass c).addY x₁ x₂ y₁ l = l * (x₁ - (weierstrass c).addX x₁ x₂ l) - y₁ := by
  rw [WeierstrassCurve.Affine.addY, negY_weierstrass, WeierstrassCurve.Affine.negAddY]
  ring

/-- The third point of the chord or tangent through two points, by Mathlib's slope. -/
def sumPoint (c : Curve) [Fact c.p.Prime] (x₁ y₁ x₂ y₂ : ZMod c.p) : Point :=
  affOf ((weierstrass c).addX x₁ x₂ ((weierstrass c).slope x₁ x₂ y₁ y₂))
    ((weierstrass c).addY x₁ x₂ y₁ ((weierstrass c).slope x₁ x₂ y₁ y₂))

/-- The chord's coordinates from its slope (R153, R154). -/
theorem aff_eq_sumPoint {x3 y3 : Nat} {x₁ y₁ x₂ y₂ l : ZMod c.p} (hred : Reduced c.p (.aff x3 y3))
    (hl : (weierstrass c).slope x₁ x₂ y₁ y₂ = l) (hx : (x3 : ZMod c.p) = l ^ 2 - x₁ - x₂)
    (hy : (y3 : ZMod c.p) = l * (x₁ - x3) - y₁) : Point.aff x3 y3 = sumPoint c x₁ y₁ x₂ y₂ := by
  rw [sumPoint, hl, addY_weierstrass, addX_weierstrass, ← hx, ← hy, aff_eq_affOf hred]

theorem onCurve_sumPoint {x₁ y₁ x₂ y₂ : ZMod c.p} (h1 : (weierstrass c).Equation x₁ y₁)
    (h2 : (weierstrass c).Equation x₂ y₂) (h : ¬ (x₁ = x₂ ∧ y₁ = -y₂)) : OnCurve c (sumPoint c x₁ y₁ x₂ y₂) :=
  onCurve_affOf_iff_equation.mpr (WeierstrassCurve.Affine.equation_add h1 h2 (negY_weierstrass x₂ y₂ ▸ h))

/-! ### Chord and tangent -/

section
variable {x1 y1 x2 y2 : Nat}

theorem natCast_ne_of_ne {x1 x2 : Nat} (h1 : x1 < c.p) (h2 : x2 < c.p) (h : x1 ≠ x2) : (x1 : ZMod c.p) ≠ x2 :=
  fun heq => h (eq_of_natCast_eq h1 h2 heq)

/-- The slope of `chordPoint` (R153, step 5). -/
def chordSlope (p x1 y1 x2 y2 : Nat) : Nat := (y2 + p - y1) % p * (((x2 + p - x1) % p) ^ (p - 2) % p) % p

/-- The slope of `tangentPoint` (R154, step 2). -/
def tangentSlope (c : Curve) (x1 y1 : Nat) : Nat :=
  (3 * x1 ^ 2 + c.a) % c.p * ((2 * y1 % c.p) ^ (c.p - 2) % c.p) % c.p

theorem natCast_chordSlope (hx1 : x1 ≤ c.p) (hy1 : y1 ≤ c.p) (hne : (x1 : ZMod c.p) ≠ x2) :
    (chordSlope c.p x1 y1 x2 y2 : ZMod c.p) = (weierstrass c).slope x1 x2 y1 y2 := by
  have hdx : (((x2 + c.p - x1) % c.p : Nat) : ZMod c.p) ≠ 0 := by
    rw [natCast_sub_mod hx1]
    exact sub_ne_zero.mpr hne.symm
  rw [WeierstrassCurve.Affine.slope_of_X_ne hne, chordSlope, natCast_div_mod _ hdx, natCast_sub_mod hy1,
    natCast_sub_mod hx1, ← neg_sub (y1 : ZMod c.p), ← neg_sub (x1 : ZMod c.p), neg_div_neg_eq]

theorem chordPoint_eq_sumPoint (h1 : Reduced c.p (.aff x1 y1)) (h2 : Reduced c.p (.aff x2 y2)) (hx : x1 ≠ x2) :
    chordPoint c.p x1 y1 x2 y2 = sumPoint c x1 y1 x2 y2 := by
  obtain ⟨hx1, hy1⟩ := h1
  have hx2 : x2 ≤ c.p := h2.1.le
  have hp : 0 < c.p := Nat.zero_lt_of_lt hx1
  have hslope := natCast_chordSlope (y2 := y2) hx1.le hy1.le (natCast_ne_of_ne hx1 h2.1 hx)
  refine aff_eq_sumPoint (reduced_chordPoint hp) hslope.symm ?_ ?_
  · rw [natCast_sub_mod hx2, natCast_sub_mod hx1.le, natCast_mul_mod, pow_two]
    rfl
  · rw [natCast_sub_mod hy1.le, natCast_mul_mod, natCast_sub_mod (Nat.mod_lt _ hp).le]
    rfl

theorem natCast_double (y : Nat) : ((2 * y % c.p : Nat) : ZMod c.p) = 2 * y := by
  rw [natCast_mul_mod, Nat.cast_ofNat]

/-- The tangent's denominator is `2 * y`, which is 0 exactly when the point is its own inverse. -/
theorem natCast_ne_neg_self (hy : 2 * y1 % c.p ≠ 0) : (y1 : ZMod c.p) ≠ -y1 := by
  have hdbl : (2 * y1 : ZMod c.p) ≠ 0 :=
    natCast_double (c := c) y1 ▸ natCast_ne_zero_of_lt (Nat.mod_lt _ (Fact.out : c.p.Prime).pos) hy
  rwa [ne_eq, eq_neg_iff_add_eq_zero, ← two_mul]

theorem natCast_tangentSlope (hy : 2 * y1 % c.p ≠ 0) :
    (tangentSlope c x1 y1 : ZMod c.p) = (weierstrass c).slope x1 x1 y1 y1 := by
  have hne := natCast_ne_neg_self hy
  have hdy : ((2 * y1 % c.p : Nat) : ZMod c.p) ≠ 0 :=
    natCast_ne_zero_of_lt (Nat.mod_lt _ (Fact.out : c.p.Prime).pos) hy
  rw [WeierstrassCurve.Affine.slope_of_Y_ne rfl (negY_weierstrass (c := c) _ _ ▸ hne), negY_weierstrass, tangentSlope,
    natCast_div_mod _ hdy, natCast_double, ZMod.natCast_mod]
  simp [weierstrass, two_mul]

theorem tangentPoint_eq_sumPoint (h1 : Reduced c.p (.aff x1 y1)) (hy : 2 * y1 % c.p ≠ 0) :
    tangentPoint c x1 y1 = sumPoint c x1 y1 x1 y1 := by
  obtain ⟨hx1, hy1⟩ := h1
  have hp : 0 < c.p := Nat.zero_lt_of_lt hx1
  refine aff_eq_sumPoint (reduced_tangentPoint hp) (natCast_tangentSlope (x1 := x1) hy).symm ?_ ?_
  · rw [natCast_sub_mod (Nat.mod_lt _ hp).le, natCast_mul_mod, natCast_double, sub_sub, ← two_mul,
      pow_two (tangentSlope c x1 y1 : ZMod c.p)]
    rfl
  · rw [natCast_sub_mod hy1.le, natCast_mul_mod, natCast_sub_mod (Nat.mod_lt _ hp).le]
    rfl

end

end

end Sys2Proof.Machine
end

section
/-! SUPPORT. `padd`, `pdbl` and `smul` over a prime `p`: what each can return, case by case, so every point they return
is on the curve and neither a chord's divisor nor its result check ever fails (spec/41_curve.md R153, R154, R160, R161). -/

namespace Sys2Proof.Machine
open Sys2Proof.Spec

section
variable {c : Curve} {pt : Point}

theorem padd_inf_right (h : OnCurve c pt) : padd c pt .inf = .ok pt :=
  (padd_of_onCurve (qt := .inf) h trivial).trans (paddOn_inf_right c pt)

theorem padd_inf_left (h : OnCurve c pt) : padd c .inf pt = .ok pt := padd_of_onCurve (pt := .inf) trivial h

theorem pdbl_aff_of_order_two {x1 y1 : Nat} (hon : OnCurve c (.aff x1 y1)) (hy : 2 * y1 % c.p = 0) :
    pdbl c (.aff x1 y1) = .error .divideByZero := (pdbl_aff hon).trans (tangent_of_eq_zero hy)

end

/-- An outcome of a curve function: a point of the curve with reduced coordinates, or an error of a kind in `ks`. -/
def EndsOn (c : Curve) (ks : List ErrorKind) : Result Point → Prop
  | .ok pt => Reduced c.p pt ∧ OnCurve c pt
  | .error kind => kind ∈ ks

section
variable {c : Curve} {ks ks' : List ErrorKind} {r : Result Point}

theorem EndsOn.mono (h : EndsOn c ks r) (hks : ks ⊆ ks') : EndsOn c ks' r := by
  cases r with
  | ok pt => exact h
  | error kind => exact hks h

theorem EndsOn.errorsIn (h : EndsOn c ks r) : ErrorsIn ks r := by
  cases r with
  | ok pt => exact errorsIn_ok pt
  | error kind => exact h

theorem EndsOn.point {pt : Point} (h : EndsOn c ks r) (hr : r = .ok pt) : Reduced c.p pt ∧ OnCurve c pt := by
  subst hr
  exact h

end

section
variable {c : Curve} [Fact c.p.Prime]

/-! ### `padd` -/

section
variable {x1 y1 x2 y2 : Nat}

theorem add_mod_eq_zero_iff : (y1 + y2) % c.p = 0 ↔ (y1 : ZMod c.p) = -y2 := by
  rw [eq_neg_iff_add_eq_zero, ← Nat.cast_add, ZMod.natCast_eq_zero_iff, Nat.dvd_iff_mod_eq_zero]

/-- The chord through two points of the curve meets it again, so the result check passes (R153, step 6). -/
theorem chord_eq_sumPoint (h1 : Reduced c.p (.aff x1 y1)) (h2 : Reduced c.p (.aff x2 y2))
    (hon1 : OnCurve c (.aff x1 y1)) (hon2 : OnCurve c (.aff x2 y2)) (hx : x1 ≠ x2) :
    chord c x1 y1 x2 y2 = .ok (sumPoint c x1 y1 x2 y2) ∧ OnCurve c (sumPoint c (x1 : ZMod c.p) y1 x2 y2) := by
  have hon : OnCurve c (sumPoint c (x1 : ZMod c.p) y1 x2 y2) :=
    onCurve_sumPoint (onCurve_aff_iff_equation.mp hon1) (onCurve_aff_iff_equation.mp hon2)
      fun h => natCast_ne_of_ne h1.1 h2.1 hx h.1
  refine ⟨?_, hon⟩
  rw [chord_of_fsub_ne_zero (fsub_ne_zero h2.1 h1.1 hx.symm), chordPoint_eq_sumPoint h1 h2 hx,
    if_pos (onCurve_iff.mpr hon)]

/-- Two points of the curve with one `x` are equal or inverse: there is no fourth case over a prime. -/
theorem padd_aff_cases (h1 : Reduced c.p (.aff x1 y1)) (h2 : Reduced c.p (.aff x2 y2))
    (hon1 : OnCurve c (.aff x1 y1)) (hon2 : OnCurve c (.aff x2 y2)) :
    (x1 = x2 ∧ (y1 : ZMod c.p) = -y2 ∧ padd c (.aff x1 y1) (.aff x2 y2) = .ok .inf) ∨
    (x1 = x2 ∧ y1 = y2 ∧ (y1 : ZMod c.p) ≠ -y2 ∧ padd c (.aff x1 y1) (.aff x2 y2) = .error .invalidPoint) ∨
    (x1 ≠ x2 ∧ padd c (.aff x1 y1) (.aff x2 y2) = .ok (sumPoint c x1 y1 x2 y2) ∧
      OnCurve c (sumPoint c (x1 : ZMod c.p) y1 x2 y2)) := by
  rw [padd_of_onCurve hon1 hon2]
  by_cases hx : x1 = x2
  · by_cases hy : (y1 : ZMod c.p) = -y2
    · exact .inl ⟨hx, hy, paddOn_of_inverse hx (add_mod_eq_zero_iff.mpr hy)⟩
    · have heq : (y1 : ZMod c.p) = y2 := WeierstrassCurve.Affine.Y_eq_of_Y_ne (onCurve_aff_iff_equation.mp hon1)
        (onCurve_aff_iff_equation.mp hon2) (congrArg Nat.cast hx) (negY_weierstrass (c := c) _ _ ▸ hy)
      have heq := eq_of_natCast_eq h1.2 h2.2 heq
      exact .inr (.inl ⟨hx, heq, hy, paddOn_of_eq hx (fun h => hy (add_mod_eq_zero_iff.mp h)) heq⟩)
  · rw [paddOn_of_x_ne hx]
    exact .inr (.inr ⟨hx, chord_eq_sumPoint h1 h2 hon1 hon2 hx⟩)

/-- Chords have no direction. -/
theorem sumPoint_comm {x₁ y₁ x₂ y₂ : ZMod c.p} (hx : x₁ ≠ x₂) : sumPoint c x₁ y₁ x₂ y₂ = sumPoint c x₂ y₂ x₁ y₁ := by
  have hslope : (weierstrass c).slope x₁ x₂ y₁ y₂ = (weierstrass c).slope x₂ x₁ y₂ y₁ := by
    rw [WeierstrassCurve.Affine.slope_of_X_ne hx, WeierstrassCurve.Affine.slope_of_X_ne hx.symm, ← neg_sub y₂,
      ← neg_sub x₂, neg_div_neg_eq]
  have hline : (weierstrass c).slope x₂ x₁ y₂ y₁ * (x₂ - x₁) = y₂ - y₁ := by
    rw [WeierstrassCurve.Affine.slope_of_X_ne hx.symm, div_mul_cancel₀ _ (sub_ne_zero.mpr hx.symm)]
  rw [sumPoint, sumPoint, hslope, addY_weierstrass, addY_weierstrass, addX_weierstrass, addX_weierstrass]
  congr 1
  · ring
  · linear_combination -hline

end

section
variable {pt qt : Point}

theorem padd_comm (h1 : Reduced c.p pt) (h2 : Reduced c.p qt) : padd c pt qt = padd c qt pt := by
  by_cases hon : OnCurve c pt ∧ OnCurve c qt
  · obtain ⟨hon1, hon2⟩ := hon
    cases pt with
    | inf => rw [padd_inf_left hon2, padd_inf_right hon2]
    | aff x1 y1 =>
      cases qt with
      | inf => rw [padd_inf_left hon1, padd_inf_right hon1]
      | aff x2 y2 =>
        obtain ⟨rfl, hy, h⟩ | ⟨rfl, rfl, -, -⟩ | ⟨hx, h, -⟩ := padd_aff_cases h1 h2 hon1 hon2
        · rw [h, padd_of_onCurve hon2 hon1,
            paddOn_of_inverse rfl (Nat.add_comm y1 y2 ▸ add_mod_eq_zero_iff.mpr hy)]
        · rfl
        · rw [h, padd_of_onCurve hon2 hon1, paddOn_of_x_ne (Ne.symm hx),
            (chord_eq_sumPoint h2 h1 hon2 hon1 (Ne.symm hx)).1, sumPoint_comm (natCast_ne_of_ne h1.1 h2.1 hx)]
  · rw [padd_of_not_onCurve hon, padd_of_not_onCurve fun h => hon h.symm]

theorem endsOn_padd (h1 : Reduced c.p pt) (h2 : Reduced c.p qt) :
    EndsOn c [.offCurve, .invalidPoint] (padd c pt qt) := by
  by_cases hon : OnCurve c pt ∧ OnCurve c qt
  · obtain ⟨hon1, hon2⟩ := hon
    cases pt with
    | inf => exact padd_inf_left hon2 ▸ ⟨h2, hon2⟩
    | aff x1 y1 =>
      cases qt with
      | inf => exact padd_inf_right hon1 ▸ ⟨h1, hon1⟩
      | aff x2 y2 =>
        obtain ⟨-, -, h⟩ | ⟨-, -, -, h⟩ | ⟨-, h, hsum⟩ := padd_aff_cases h1 h2 hon1 hon2 <;> rw [h]
        · exact ⟨trivial, trivial⟩
        · simp [EndsOn]
        · exact ⟨reduced_affOf _ _, hsum⟩
  · simp [padd_of_not_onCurve hon, EndsOn]

/-! ### `pdbl` -/

theorem pdbl_aff_eq_sumPoint {x1 y1 : Nat} (h1 : Reduced c.p (.aff x1 y1)) (hon : OnCurve c (.aff x1 y1))
    (hy : 2 * y1 % c.p ≠ 0) : pdbl c (.aff x1 y1) = .ok (sumPoint c x1 y1 x1 y1) := by
  rw [pdbl_aff hon, tangent_of_ne_zero hy, tangentPoint_eq_sumPoint h1 hy]

theorem endsOn_pdbl (h : Reduced c.p pt) : EndsOn c [.divideByZero, .offCurve] (pdbl c pt) := by
  by_cases hon : OnCurve c pt
  · cases pt with
    | inf => exact ⟨trivial, trivial⟩
    | aff x1 y1 =>
      by_cases hy : 2 * y1 % c.p = 0
      · simp [pdbl_aff_of_order_two hon hy, EndsOn]
      · have heq := onCurve_aff_iff_equation.mp hon
        rw [pdbl_aff_eq_sumPoint h hon hy]
        exact ⟨reduced_affOf _ _, onCurve_sumPoint heq heq fun h => natCast_ne_neg_self hy h.2⟩
  · simp [pdbl_of_not_onCurve hon, EndsOn]

/-! ### `smul` -/

/-- Along the recursion of R160. -/
theorem endsOn_of_smulEnds {k : Nat} {r : Result Point} (h : SmulEnds c pt k r) (hpt : Reduced c.p pt) :
    EndsOn c [.divideByZero, .offCurve, .invalidPoint] r := by
  induction h with
  | offCurve => simp [EndsOn]
  | zero => exact ⟨trivial, trivial⟩
  | one hon => exact ⟨hpt, hon⟩
  | oddError _ _ _ _ ih => exact ih hpt
  | odd _ _ _ _ ih => exact (endsOn_padd hpt (ih hpt).1).mono (by decide)
  | evenError _ _ _ hdbl => exact hdbl ▸ (endsOn_pdbl hpt).mono (by decide)
  | even _ _ _ hdbl _ ih => exact ih ((endsOn_pdbl hpt).point hdbl).1

theorem endsOn_smul (k : Nat) (h : Reduced c.p pt) :
    EndsOn c [.divideByZero, .offCurve, .invalidPoint] (smul c pt k) := endsOn_of_smulEnds (smulEnds_smul c pt k) h

/-- Doubling is `smul` at 2: the doubled point is on the curve, so the recursion ends with it (R161). -/
theorem smul_two (h : Reduced c.p pt) : smul c pt 2 = pdbl c pt := by
  by_cases hon : OnCurve c pt
  · rw [smul_even hon (by decide) (by decide)]
    cases hdbl : pdbl c pt with
    | error kind => rfl
    | ok dbl => exact smul_one ((endsOn_pdbl h).point hdbl).2
  · rw [smul_of_not_onCurve hon, pdbl_of_not_onCurve hon]

end

end

end Sys2Proof.Machine
end

section
/-! SUPPORT. SMUL and PUBKEY with operands in range end as `smul` does (spec/41_curve.md R158, R159). -/

namespace Sys2Proof.Machine
open Sys2Proof.Spec

section
variable {s : State}

theorem endsAs_exec_smul (hc : CurveIn (latched s)) (h1 : In1 (latched s)) :
    EndsAs s (exec .smul s) (smul (curveOf (latched s)) (held1 (latched s)) (latched s).k.toNat) := by
  rw [exec_smul, curveCompletion_of_in point1_checksRange hc h1]
  exact endsAs_complete s (curveOf_p_le _) fun rt => reduced_of_smul (curveOf_p_pos hc) (reduced_pointHeld h1)

/-- The scalars at which the recursion ends at once. -/
theorem endsWithPoint_zero_and_one {c : Curve} {pt : Point} {k : Word} {o : Ending} (h : EndsAs s o (smul c pt k.toNat))
    (hon : OnCurve c pt) : (k = 0 → EndsWithPoint s o .inf) ∧ (k = 1 → EndsWithPoint s o pt) := by
  refine ⟨?_, ?_⟩ <;> rintro rfl
  · have hzero : smul c pt (0 : Word).toNat = .ok .inf := smul_zero hon
    rwa [hzero] at h
  · have hone : smul c pt (1 : Word).toNat = .ok pt := smul_one hon
    rwa [hone] at h

theorem endsAs_exec_pubkey (hc : CurveIn (latched s)) (hg : BaseIn (latched s)) :
    EndsAs s (exec .pubkey s) (smul (curveOf (latched s)) (baseOf (latched s)) (latched s).d.toNat) := by
  rw [exec_pubkey, curveCompletion_of_in basept_checksRange hc hg]
  exact endsAs_complete s (curveOf_p_le _) fun rt => reduced_of_smul (curveOf_p_pos hc) hg

end

end Sys2Proof.Machine
end

section
/-! The obligations about the curve functions (spec/41_curve.md R158, R159, R161). -/

namespace Sys2Proof.Proofs
open Sys2Proof.Machine Sys2Proof.Spec

/-- Settles O36: the laws one by one; what the functions return is `EndsOn` the curve. -/
theorem curveFunctionsObeyTheCurveLaws : Obligations.CurveFunctionsObeyTheCurveLaws := by
  intro c hp ha hb pt qt hpt hqt
  have : Fact c.p.Prime := ⟨hp⟩
  have hpoint {ks r rt} (h : EndsOn c ks r) (hr : r = .ok rt) : Reduced c.p rt ∧ onCurve c rt = true :=
    (h.point hr).imp_right onCurve_iff.mpr
  refine ⟨fun hon => ?_, padd_comm hpt hqt, fun hon => ?_, smul_two hpt, fun rt => hpoint (endsOn_padd hpt hqt),
    fun rt => hpoint (endsOn_pdbl hpt), fun k rt => hpoint (endsOn_smul k hpt)⟩
  · exact ⟨padd_inf_right (onCurve_iff.mp hon), padd_inf_left (onCurve_iff.mp hon)⟩
  · exact ⟨smul_zero (onCurve_iff.mp hon), smul_one (onCurve_iff.mp hon)⟩

/-- Settles O35: the recursion ends at once for 0 and 1, and the commands end as it does. -/
theorem scalarCommandsCompleteForZeroAndOne : Obligations.ScalarCommandsCompleteForZeroAndOne := by
  intro s x
  exact ⟨fun hc hin => endsWithPoint_zero_and_one (endsAs_exec_smul hc hin),
    fun hc hin => endsWithPoint_zero_and_one (endsAs_exec_pubkey hc hin)⟩

end Sys2Proof.Proofs
end

section
/-! SUPPORT. The error kinds of every command over a prime `P` (spec/60_exceptions.md R232): no chord fails its result
check, so `INTERNAL` is not among them, and no chord divides by zero. -/

namespace Sys2Proof.Machine
open Sys2Proof.Spec

/-- The kinds of `smul` over a prime. -/
abbrev primeCurveKinds : List ErrorKind := [.divideByZero, .offCurve, .invalidPoint]

/-- The kinds R232 lists for a command with a prime modulus (only `x` in its table). -/
def kindsOverPrime : Instr → List ErrorKind
  | .padd => [.offCurve, .invalidPoint, .operandRange]
  | i => (kindsOf i).filter (· ≠ .internal)

theorem internal_not_mem_kindsOverPrime (i : Instr) : .internal ∉ kindsOverPrime i := by
  cases i <;> simp [kindsOverPrime]

/-! ### ECDSA -/

section
variable {ec : EcdsaCtx} [Fact ec.c.p.Prime]

theorem errorsIn_keyPair_of_prime (hg : Reduced ec.c.p ec.g) (d : Nat) : ErrorsIn primeCurveKinds (keyPair ec d) := by
  rw [keyPair_eq]
  exact (endsOn_smul d hg).errorsIn.map _

theorem errorsIn_signCore_of_prime (hg : Reduced ec.c.p ec.g) (eRaw dRaw k : Nat) :
    ErrorsIn (.badNonce :: primeCurveKinds) (signCore ec eRaw dRaw k) := by
  refine ((endsOn_smul k hg).errorsIn.mono (by decide)).bind fun rp _ => ?_
  cases rp with
  | inf => simp
  | aff xR yR => exact (errorsIn_signFrom ..).mono (by decide)

theorem errorsIn_verifyCore_of_prime {q : Point} (hg : Reduced ec.c.p ec.g) (hq : Reduced ec.c.p q) (eRaw r s : Nat) :
    ErrorsIn primeCurveKinds (verifyCore ec eRaw q r s) := by
  by_cases hinf : q = .inf
  · simp [hinf, verifyCore_inf]
  by_cases hs : s = 0
  · simp [hs, verifyCore_zero hinf]
  rw [verifyCore_of_ne_zero hinf hs]
  refine (endsOn_smul _ hg).errorsIn.bind fun a1 h1 => (endsOn_smul _ hq).errorsIn.bind fun a2 h2 => ?_
  have hred1 := ((endsOn_smul _ hg).point h1).1
  have hred2 := ((endsOn_smul _ hq).point h2).1
  exact ((endsOn_padd hred1 hred2).errorsIn.mono (by decide)).map _

end

/-! ### Every command -/

section
variable {s : State}

theorem completesWithin_drawCompletion_of_drawIn {α : Type} {ks : List ErrorKind} {write : α → Regs → Regs}
    {f : EcdsaCtx → Nat → Result α} (hwrite : ∀ v x, (write v x).status = x.status) (hrng : .rngFailure ∈ ks)
    (h : DrawIn (latched s)) (hf : ∀ v, ErrorsIn ks (f (ecdsaCtxOf (latched s)) v)) :
    CompletesWithin ks s (drawCompletion write f s) := by
  have hdraw := (errorsIn_drawNonzero h.2.2 s).mono (List.cons_subset.mpr ⟨hrng, List.nil_subset _⟩)
  rw [drawCompletion_of_drawIn h]
  exact completesWithin_complete hwrite (drawNonzero_regs _ s) (hdraw.bind fun v _ => hf v)

theorem operandRange_mem_kindsOverPrime {i : Instr} (h : ¬ RangeOk (latched s) i) :
    .operandRange ∈ kindsOverPrime i := by
  have hmem := operandRange_mem_kindsOf h
  cases i
  case padd => decide
  all_goals exact List.mem_filter.mpr ⟨hmem, by decide⟩

theorem completesWithin_of_prime (i : Instr) (hp : (latched s).p.toNat.Prime) :
    CompletesWithin (kindsOverPrime i) s (exec i s) := by
  have : Fact (curveOf (latched s)).p.Prime := ⟨hp⟩
  by_cases h : RangeOk (latched s) i
  case neg =>
    rw [exec_of_not_rangeOk h]
    exact completesWithin_failed (operandRange_mem_kindsOverPrime h)
  cases i with
  | nop | ldk1 | fadd | fsub | fmul | finv | fdiv | oncurve | pdbl =>
    exact (completesWithin_exec _ s).mono (by simp [kindsOverPrime, kindsOf])
  | padd =>
    obtain ⟨hc, h1, h2⟩ := h
    rw [exec_padd_of_in hc h1 h2]
    exact completesWithin_complete writePoint_status rfl
      ((endsOn_padd (reduced_pointHeld h1) (reduced_pointHeld h2)).errorsIn.mono (by decide))
  | smul =>
    rw [exec_smul, curveCompletion_of_in point1_checksRange h.1 h.2]
    exact completesWithin_complete writePoint_status rfl
      ((endsOn_smul _ (reduced_pointHeld h.2)).errorsIn.mono (by decide))
  | pubkey =>
    rw [exec_pubkey, curveCompletion_of_in basept_checksRange h.1 h.2]
    exact completesWithin_complete writePoint_status rfl
      ((endsOn_smul (c := curveOf (latched s)) (pt := baseOf (latched s)) _ h.2).errorsIn.mono (by decide))
  | keygen =>
    exact completesWithin_drawCompletion_of_drawIn writeKeyPair_status (by decide) h fun d =>
      (errorsIn_keyPair_of_prime (ec := ecdsaCtxOf _) h.2.1 d).mono (by decide)
  | sign =>
    exact completesWithin_drawCompletion_of_drawIn writeSignature_status (by decide) h fun k =>
      (errorsIn_signCore_of_prime (ec := ecdsaCtxOf _) h.2.1 _ _ k).mono (by decide)
  | verify =>
    obtain ⟨hc, hg, hr, hs, h2⟩ := h
    rw [exec_verify_of_in ⟨hc, hg, hr, hs, h2⟩]
    exact completesWithin_complete writeFlag_status rfl
      ((errorsIn_verifyCore_of_prime (ec := ecdsaCtxOf _) hg (reduced_pointHeld h2) _ _ _).mono (by decide))

end

section
variable {ks : List ErrorKind} {s t : State}

/-- `ERRCODE` after a completion: 0 or the code of a kind that can be. -/
theorem CompletesWithin.statusErr (h : CompletesWithin ks s (.next t)) :
    statusErr t.regs.status = 0 ∨ ∃ kind ∈ ks, statusErr t.regs.status = errorCode kind := by
  cases h with
  | success _ hstatus => exact .inl (hstatus ▸ statusErr_successStatus _)
  | error hkind _ hregs => exact .inr ⟨_, hkind, hregs ▸ statusErr_errorStatus _ _⟩

/-- `ERRCODE` is no code but 0 and those of the kinds that can be. -/
theorem CompletesWithin.statusErr_ne {code : BitVec 4} (h : CompletesWithin ks s (.next t)) (hzero : code ≠ 0)
    (hks : ∀ kind ∈ ks, errorCode kind ≠ code) : Machine.statusErr t.regs.status ≠ code := by
  obtain hsuccess | ⟨kind, hkind, hcode⟩ := h.statusErr
  · exact hsuccess ▸ hzero.symm
  · exact hcode ▸ hks kind hkind

/-- A completion that cannot be `INTERNAL` leaves `FATAL` (R238). -/
theorem CompletesWithin.statusFatal (h : CompletesWithin ks s (.next t)) (hinternal : .internal ∉ ks) :
    statusFatal t.regs.status = Machine.statusFatal s.regs.status := by
  cases h with
  | success _ hstatus => rw [hstatus, statusFatal_successStatus]
  | @error _ kind hkind _ hregs =>
    have hne : kind ≠ .internal := fun heq => hinternal (heq ▸ hkind)
    rw [hregs, statusFatal_errorStatus, decide_eq_false hne, Bool.false_or]

/-- Over a prime a completion step leaves `FATAL`, whatever the word in progress. -/
theorem statusFatal_of_completionStep (hp : (latched s).p.toNat.Prime) (h : completionStep s = .next t) :
    statusFatal t.regs.status = statusFatal s.regs.status := by
  cases hphase : s.phase with
  | idle =>
    rw [completionStep_of_idle hphase] at h
    cases h
    rfl
  | busy w snap =>
    cases hw : decode w with
    | ok i =>
      rw [completionStep_of_decodes hphase hw] at h
      exact (h ▸ completesWithin_of_prime i hp).statusFatal (internal_not_mem_kindsOverPrime i)
    | error e =>
      rw [completionStep_of_illegal hphase hw] at h
      cases h
      exact statusFatal_errorStatus .illegalCmd _

end

end Sys2Proof.Machine
end

section
/-! The obligations about the error kinds of every command (spec/60_exceptions.md R232, R238). -/

namespace Sys2Proof.Proofs
open Sys2Proof.Machine Sys2Proof.Spec

/-- Settles O50: of all steps only a completion touches `FATAL`, and over a prime no completion does. -/
theorem primeModulusNeverBecomesFatal : Obligations.PrimeModulusNeverBecomesFatal := by
  intro s t hp hbefore hstep
  cases step_cases hstep with
  | reset _ ht => rw [ht, resetInput_regs, statusFatal_reset]
  | unchanged hregs => rw [hregs, hbefore]
  | issue _ _ _ _ ht => rw [ht, latchCommand_status, statusFatal_issueStatus, withInputs_regs, hbefore]
  | write _ v hwritable _ _ ht => rw [ht, writeReg_status v s.regs hwritable, hbefore]
  | completion _ hcompletion => exact (statusFatal_of_completionStep (s := afterInput s) hp hcompletion).trans hbefore

/-- Settles O49: the kinds of a completion, and those that are left over a prime. -/
theorem commandsEndWithTheirListedKinds : Obligations.CommandsEndWithTheirListedKinds := by
  intro i s t ht
  have hends := ht ▸ completesWithin_exec i s
  refine ⟨hends.statusErr, fun hp => ?_⟩
  have hprime := ht ▸ completesWithin_of_prime i hp
  refine ⟨hprime.statusErr_ne (by decide) fun kind hkind hcode => ?internal, ?divideByZero⟩
  case internal => exact internal_not_mem_kindsOverPrime i (errorCode_eq_internal.mp hcode ▸ hkind)
  case divideByZero =>
    rintro rfl
    exact hprime.statusErr_ne (by decide) (by decide)

end Sys2Proof.Proofs
end

section
/-! SUPPORT. The curve functions in the group of the curve over a prime `p` (spec/41_curve.md R161, R162): each group
element has one point value, and on these values `padd` is the sum, `pdbl` the double and `smul` the multiple. -/

namespace Sys2Proof.Machine
open Sys2Proof.Spec

/-! ### Point values of group elements -/

section
variable {c : Curve}

/-- The point value that stands for a group element. -/
def valueOf : (weierstrass c).Point → Point
  | .zero => .inf
  | .some x y _ => affOf x y

theorem valueOf_zero : valueOf (0 : (weierstrass c).Point) = .inf := rfl

theorem valueOf_eq_inf_iff {g : (weierstrass c).Point} : valueOf g = .inf ↔ g = 0 := by
  cases g with
  | zero => exact iff_of_true rfl rfl
  | some x y h => exact iff_of_false nofun (WeierstrassCurve.Affine.Point.some_ne_zero h)

variable [Fact c.p.Prime]

theorem denotes_valueOf (g : (weierstrass c).Point) : Denotes c (valueOf g) g := by
  cases g with
  | zero => exact .inf
  | some x y h =>
    obtain ⟨u, hu, rfl⟩ : ∃ u < c.p, (u : ZMod c.p) = x := ⟨x.val, x.val_lt, ZMod.natCast_zmod_val x⟩
    obtain ⟨v, hv, rfl⟩ : ∃ v < c.p, (v : ZMod c.p) = y := ⟨y.val, y.val_lt, ZMod.natCast_zmod_val y⟩
    rw [valueOf, ← aff_eq_affOf ⟨hu, hv⟩]
    exact .aff hu hv h

theorem denotes_iff {pt : Point} {g : (weierstrass c).Point} : Denotes c pt g ↔ pt = valueOf g := by
  refine ⟨fun h => ?_, fun h => h ▸ denotes_valueOf g⟩
  cases h with
  | inf => rfl
  | aff hx hy => exact aff_eq_affOf ⟨hx, hy⟩

theorem reduced_valueOf (g : (weierstrass c).Point) : Reduced c.p (valueOf g) := by
  cases g with
  | zero => trivial
  | some x y _ => exact reduced_affOf x y

theorem onCurve_valueOf (g : (weierstrass c).Point) : OnCurve c (valueOf g) := by
  cases g with
  | zero => trivial
  | some x y h => exact onCurve_affOf_iff_equation.mpr h.1

/-! ### `padd` and `pdbl` -/

/-- `padd` is the sum, but for the doubling that R153 leaves to `pdbl`. -/
theorem padd_valueOf (g h : (weierstrass c).Point) :
    ((g = h → g + h = 0) ∧ padd c (valueOf g) (valueOf h) = .ok (valueOf (g + h))) ∨
      (g = h ∧ g + h ≠ 0 ∧ padd c (valueOf g) (valueOf h) = .error .invalidPoint) := by
  cases g with
  | zero =>
    rw [← WeierstrassCurve.Affine.Point.zero_def, zero_add]
    exact .inl ⟨Eq.symm, padd_inf_left (onCurve_valueOf h)⟩
  | some x₁ y₁ hg =>
    cases h with
    | zero =>
      rw [← WeierstrassCurve.Affine.Point.zero_def, add_zero]
      exact .inl ⟨id, padd_inf_right (onCurve_valueOf _)⟩
    | some x₂ y₂ hh =>
      have hcases := padd_aff_cases (reduced_valueOf (.some x₁ y₁ hg)) (reduced_valueOf (.some x₂ y₂ hh))
        (onCurve_valueOf (.some x₁ y₁ hg)) (onCurve_valueOf (.some x₂ y₂ hh))
      simp only [ZMod.natCast_zmod_val, (ZMod.val_injective c.p).eq_iff, ne_eq] at hcases
      obtain ⟨hx, hy, hsum⟩ | ⟨rfl, rfl, hy, hsum⟩ | ⟨hx, hsum, -⟩ := hcases
      · left
        rw [WeierstrassCurve.Affine.Point.add_of_Y_eq hx (by rwa [negY_weierstrass])]
        exact ⟨fun _ => rfl, hsum⟩
      · right
        refine ⟨rfl, ?_, hsum⟩
        rw [WeierstrassCurve.Affine.Point.add_self_of_Y_ne (by rwa [negY_weierstrass])]
        exact WeierstrassCurve.Affine.Point.some_ne_zero _
      · left
        rw [WeierstrassCurve.Affine.Point.add_of_X_ne hx]
        exact ⟨fun heq => absurd (WeierstrassCurve.Affine.Point.some.inj heq).1 hx, hsum⟩

theorem pdbl_valueOf (g : (weierstrass c).Point) :
    pdbl c (valueOf g) = .ok (valueOf (g + g)) ∨
      (g ≠ 0 ∧ g + g = 0 ∧ pdbl c (valueOf g) = .error .divideByZero) := by
  cases g with
  | zero => exact .inl rfl
  | some x y h =>
    have hon := onCurve_valueOf (.some x y h)
    by_cases hy : 2 * y.val % c.p = 0
    · right
      have hneg : y = -y := by
        have hdbl := add_mod_eq_zero_iff.mp (two_mul y.val ▸ hy)
        rwa [ZMod.natCast_zmod_val] at hdbl
      exact ⟨WeierstrassCurve.Affine.Point.some_ne_zero h,
        WeierstrassCurve.Affine.Point.add_self_of_Y_eq (by rwa [negY_weierstrass]), pdbl_aff_of_order_two hon hy⟩
    · left
      have hneg := natCast_ne_neg_self hy
      have hdbl := pdbl_aff_eq_sumPoint (reduced_valueOf (.some x y h)) hon hy
      simp only [ZMod.natCast_zmod_val] at hneg hdbl
      rw [WeierstrassCurve.Affine.Point.add_self_of_Y_ne (by rwa [negY_weierstrass])]
      exact hdbl

theorem padd_valueOf_of_ne {g h : (weierstrass c).Point} (hne : g ≠ h) :
    padd c (valueOf g) (valueOf h) = .ok (valueOf (g + h)) := by
  obtain ⟨-, hsum⟩ | ⟨heq, -, -⟩ := padd_valueOf g h
  · exact hsum
  · exact absurd heq hne

theorem padd_valueOf_self {g : (weierstrass c).Point} (hne : g + g ≠ 0) :
    padd c (valueOf g) (valueOf g) = .error .invalidPoint := by
  obtain ⟨hzero, -⟩ | ⟨-, -, herr⟩ := padd_valueOf g g
  · exact absurd (hzero rfl) hne
  · exact herr

theorem eq_of_padd_valueOf {g h : (weierstrass c).Point} {rt : Point}
    (hsum : padd c (valueOf g) (valueOf h) = .ok rt) : rt = valueOf (g + h) := by
  obtain ⟨-, hok⟩ | ⟨-, -, herr⟩ := padd_valueOf g h
  · exact (Except.ok.inj (hok.symm.trans hsum)).symm
  · cases herr.symm.trans hsum

theorem eq_of_pdbl_valueOf {g : (weierstrass c).Point} {rt : Point} (hdbl : pdbl c (valueOf g) = .ok rt) :
    rt = valueOf (g + g) := by
  obtain hok | ⟨-, -, herr⟩ := pdbl_valueOf g
  · exact (Except.ok.inj (hok.symm.trans hdbl)).symm
  · cases herr.symm.trans hdbl

/-! ### `smul` -/

theorem add_pred_nsmul {G : Type} [AddMonoid G] (g : G) {k : Nat} (h : k ≠ 0) : g + (k - 1) • g = k • g := by
  rw [← succ_nsmul', Nat.sub_add_cancel (Nat.one_le_iff_ne_zero.mpr h)]

theorem half_nsmul_double {G : Type} [AddMonoid G] (g : G) {k : Nat} (h : k % 2 = 0) : (k / 2) • (g + g) = k • g := by
  rw [← two_nsmul, ← mul_nsmul, Nat.mul_div_cancel' (Nat.dvd_of_mod_eq_zero h)]

/-- Along the recursion of R160: a point it returns is the multiple (R162). -/
theorem eq_of_smulEnds_valueOf {pt rt : Point} {k : Nat} {r : Result Point} {g : (weierstrass c).Point}
    (h : SmulEnds c pt k r) (hpt : pt = valueOf g) (hr : r = .ok rt) : rt = valueOf (k • g) := by
  induction h generalizing g rt with
  | offCurve | oddError | evenError => cases hr
  | zero =>
    cases hr
    rw [zero_nsmul, valueOf_zero]
  | one =>
    cases hr
    rw [one_nsmul, hpt]
  | odd _ _ hodd _ ih =>
    subst hpt
    rw [ih rfl rfl] at hr
    rw [eq_of_padd_valueOf hr, add_pred_nsmul g (by omega)]
  | even _ _ heven hdbl _ ih =>
    subst hpt
    rw [ih (eq_of_pdbl_valueOf hdbl) hr, half_nsmul_double g heven]

theorem eq_of_smul_valueOf {rt : Point} {k : Nat} {g : (weierstrass c).Point} (h : smul c (valueOf g) k = .ok rt) :
    rt = valueOf (k • g) := eq_of_smulEnds_valueOf (smulEnds_smul _ _ _) rfl h

/-! ### Points of prime order -/

theorem addOrderOf_of_prime_nsmul {G : Type} [AddMonoid G] {g : G} {q : Nat} (hq : q.Prime) (h0 : g ≠ 0)
    (hqg : q • g = 0) : addOrderOf g = q := by
  have : Fact q.Prime := ⟨hq⟩
  exact addOrderOf_eq_prime hqg h0

theorem nsmul_ne_zero_of_lt {G : Type} [AddMonoid G] {g : G} {q k : Nat} (hq : q.Prime) (h0 : g ≠ 0) (hqg : q • g = 0)
    (h1 : 1 ≤ k) (hlt : k < q) : k • g ≠ 0 :=
  nsmul_ne_zero_of_lt_addOrderOf (Nat.one_le_iff_ne_zero.mp h1) (by rwa [addOrderOf_of_prime_nsmul hq h0 hqg])

/-- Up to the order plus one, the recursion meets neither a doubling in `padd` nor a point of order two in `pdbl`:
strong induction on the scalar, the point with it (R162). -/
theorem smul_valueOf {q k : Nat} {g : (weierstrass c).Point} (hq : q.Prime) (hq2 : q ≠ 2) (h0 : g ≠ 0)
    (hqg : q • g = 0) (hk : k ≤ q + 1) : smul c (valueOf g) k = .ok (valueOf (k • g)) := by
  induction k using Nat.strong_induction_on generalizing g with
  | _ k ih =>
    have hon := onCurve_valueOf g
    have horder := addOrderOf_of_prime_nsmul hq h0 hqg
    have hq3 : 3 ≤ q := by have := hq.two_le; omega
    obtain rfl | rfl | ⟨h1, hodd⟩ | ⟨hk0, heven⟩ :
        k = 0 ∨ k = 1 ∨ (k ≠ 1 ∧ k % 2 = 1) ∨ (k ≠ 0 ∧ k % 2 = 0) := by omega
    · rw [smul_zero hon, zero_nsmul, valueOf_zero]
    · rw [smul_one hon, one_nsmul]
    · rw [smul_odd hon h1 hodd, ih (k - 1) (by omega) h0 hqg (by omega)]
      have hne : g ≠ (k - 1) • g := fun heq => by
        have hmod : 1 ≡ k - 1 [MOD q] := by
          rw [← horder, ← nsmul_eq_nsmul_iff_modEq, one_nsmul, ← heq]
        rw [Nat.modEq_iff_dvd' (by omega)] at hmod
        exact absurd (Nat.le_of_dvd (by omega) hmod) (by omega)
      rw [← add_pred_nsmul g (by omega : k ≠ 0)]
      exact padd_valueOf_of_ne hne
    · have hdouble : g + g ≠ 0 := by
        rw [← two_nsmul]
        exact nsmul_ne_zero_of_lt hq h0 hqg (by decide) hq3
      have hqd : q • (g + g) = 0 := by rw [nsmul_add, hqg, add_zero]
      obtain hdbl | ⟨-, hzero, -⟩ := pdbl_valueOf g
      · rw [smul_even hon hk0 heven, hdbl, ← half_nsmul_double g heven]
        exact ih (k / 2) (by omega) hdouble hqd (by omega)
      · exact absurd hzero hdouble

end

end Sys2Proof.Machine
end

section
/-! The obligations about the multiple in the group of the curve (spec/41_curve.md R162, spec/42_ecdsa.md R185). -/

namespace Sys2Proof.Proofs
open Sys2Proof.Machine Sys2Proof.Spec

/-- Settles O37: the recursion keeps "is the multiple" from call to call. -/
theorem smulIsTheGroupMultiple : Obligations.SmulIsTheGroupMultiple := by
  intro c _ ha hb pt rt g k hpt hrt
  rw [denotes_iff] at hpt ⊢
  exact eq_of_smulEnds_valueOf (smulEnds_smul c pt k) hpt hrt

/-- Settles O38: the commands end as `smul` does, which reaches the multiple by `smul_valueOf`. -/
theorem scalarCommandsGiveTheMultipleUpToTheOrder : Obligations.ScalarCommandsGiveTheMultipleUpToTheOrder := by
  intro s _ g q x c hc hq hq2 h0 hqg
  refine ⟨fun hin hg hk => ?smul, fun hin hg hd => ?pubkey⟩ <;> rw [denotes_iff] at hg
  case smul =>
    have hends := endsAs_exec_smul hc hin
    rw [hg, smul_valueOf hq hq2 h0 hqg hk] at hends
    exact ⟨_, hends, denotes_valueOf _⟩
  case pubkey =>
    have hends := endsAs_exec_pubkey hc hin
    rw [hg, smul_valueOf hq hq2 h0 hqg hd] at hends
    exact ⟨_, hends, denotes_valueOf _⟩

/-- Settles O40: the answer is below the order, so the multiple is not the identity and the key pair is written. -/
theorem keygenMakesAKeyPairOnASoundContext : Obligations.KeygenMakesAKeyPairOnASoundContext := by
  intro s _ g d rest x hc hbase hg h0 hn hn2 hng hrng h1 hlt
  have hin : DrawIn x := ⟨hc, hbase, hn.two_le⟩
  have hends := smulEnds_smul (curveOf x) (baseOf x) d
  rw [denotes_iff.mp hg, smul_valueOf hn hn2 h0 hng (by omega), ← denotes_iff.mp hg] at hends
  have hkeygen := ((keygenFollowsItsRule s).2 hin).2.2 d rest _ hrng h1 hlt hends
  have hdenotes := denotes_valueOf (d • g)
  cases hvalue : valueOf (d • g) with
  | inf => exact absurd (valueOf_eq_inf_iff.mp hvalue) (nsmul_ne_zero_of_lt hn h0 hng h1 hlt)
  | aff px py =>
    rw [hvalue] at hkeygen hdenotes
    obtain ⟨vd, vx, vy, hvd, rfl, rfl, hexec⟩ := hkeygen
    exact ⟨vd, vx, vy, hvd, hdenotes, hexec⟩

end Sys2Proof.Proofs
end

section
/-! SUPPORT. Why a signature verifies (spec/42_ecdsa.md R188 to R190): modulo the order, `u1 + u2*d` is the nonce, and
`u1 = u2*d` exactly when `e = r*d`. -/

namespace Sys2Proof.Machine
open Sys2Proof.Spec

/-! ### Scalars modulo the order -/

section
variable {n e d k r sg : Nat} [Fact n.Prime]

theorem natCast_signatureS (hk : (k : ZMod n) ≠ 0) : (signatureS n e d k r : ZMod n) = (e + r * d) / k := by
  rw [signatureS, natCast_div_mod _ hk, ZMod.natCast_mod, Nat.cast_add, natCast_mul_mod]

theorem natCast_verifyScalar (v : Nat) (hs : (sg : ZMod n) ≠ 0) : (verifyScalar n sg v : ZMod n) = v / sg :=
  natCast_div_mod v hs

theorem verifyScalar_lt (v : Nat) : verifyScalar n sg v < n := Nat.mod_lt _ (Fact.out : n.Prime).pos

/-- `u1 + u2*d` is `(e + r*d) / s`, the nonce; and the two summands agree exactly in the doubling case. -/
theorem natCast_verifyScalars (hk : (k : ZMod n) ≠ 0) (hsg : sg = signatureS n e d k r) (hs : (sg : ZMod n) ≠ 0) :
    ((verifyScalar n sg e + verifyScalar n sg r * d : Nat) : ZMod n) = k ∧
      ((verifyScalar n sg e : ZMod n) = (verifyScalar n sg r * d : Nat) ↔ (e : ZMod n) = r * d) := by
  have hmul : (sg : ZMod n) * k = e + r * d := by rw [hsg, natCast_signatureS hk, div_mul_cancel₀ _ hk]
  rw [Nat.cast_add, Nat.cast_mul, natCast_verifyScalar _ hs, natCast_verifyScalar _ hs, div_mul_eq_mul_div]
  refine ⟨?_, div_left_inj' hs⟩
  rw [← add_div, ← hmul, mul_div_cancel_left₀ _ hs]

/-- Multiples of an element of order `n` depend on the scalar modulo `n`. -/
theorem nsmul_eq_nsmul_iff_natCast {G : Type} [AddLeftCancelMonoid G] {g : G} {u v : Nat} (h0 : g ≠ 0)
    (hng : n • g = 0) :
    u • g = v • g ↔ (u : ZMod n) = v := by
  rw [nsmul_eq_nsmul_iff_modEq, addOrderOf_of_prime_nsmul Fact.out h0 hng, ZMod.natCast_eq_natCast_iff]

end

/-! ### The base point -/

section
variable {c : Curve}

/-- Its odd order shows that `p` is not 2: the recursion doubled the point. -/
theorem double_ne_zero_of_smul_odd {x y k : Nat} {rt : Point} (hodd : k % 2 = 1) (h1 : k ≠ 1)
    (h : smul c (.aff x y) k = .ok rt) : 2 * y % c.p ≠ 0 := by
  intro hy
  have hon : OnCurve c (.aff x y) := by
    by_contra hoff
    rw [smul_of_not_onCurve hoff] at h
    cases h
  rw [smul_odd hon h1 hodd, smul_even hon (by omega) (by omega), pdbl_aff_of_order_two hon hy] at h
  cases h

variable [Fact c.p.Prime]

theorem Δ_weierstrass : (weierstrass c).Δ = -16 * (4 * c.a ^ 3 + 27 * c.b ^ 2) := by
  simp only [WeierstrassCurve.Δ, WeierstrassCurve.b₂, WeierstrassCurve.b₄, WeierstrassCurve.b₆, WeierstrassCurve.b₈,
    weierstrass]
  ring

theorem Δ_weierstrass_ne_zero (h2 : (2 : ZMod c.p) ≠ 0) (h : (4 * c.a ^ 3 + 27 * c.b ^ 2) % c.p ≠ 0) :
    (weierstrass c).Δ ≠ 0 := by
  have hdisc : ((4 * c.a ^ 3 + 27 * c.b ^ 2 : Nat) : ZMod c.p) ≠ 0 := by
    rwa [ne_eq, ZMod.natCast_eq_zero_iff, Nat.dvd_iff_mod_eq_zero]
  have h16 : (-16 : ZMod c.p) = -2 ^ 4 := by norm_num
  rw [Δ_weierstrass, h16]
  exact mul_ne_zero (neg_ne_zero.mpr (pow_ne_zero 4 h2)) (by exact_mod_cast hdisc)

/-- On a non-singular curve an affine point of odd prime order stands for a group element of that order. -/
theorem exists_valueOf_of_odd_order {x y n : Nat} (hred : Reduced c.p (.aff x y))
    (hdisc : (4 * c.a ^ 3 + 27 * c.b ^ 2) % c.p ≠ 0) (hn : n.Prime) (hn2 : n ≠ 2)
    (h : smul c (.aff x y) n = .ok .inf) : ∃ g : (weierstrass c).Point, .aff x y = valueOf g ∧ g ≠ 0 ∧ n • g = 0 := by
  have hdbl := double_ne_zero_of_smul_odd (hn.eq_two_or_odd.resolve_left hn2) hn.ne_one h
  have hon : OnCurve c (.aff x y) := by
    by_contra hoff
    rw [smul_of_not_onCurve hoff] at h
    cases h
  have h2 : (2 : ZMod c.p) ≠ 0 := fun hzero => natCast_ne_neg_self hdbl <| by
    rw [eq_neg_iff_add_eq_zero, ← two_mul, hzero, zero_mul]
  have hns : (weierstrass c).Nonsingular (x : ZMod c.p) y :=
    (WeierstrassCurve.Affine.equation_iff_nonsingular_of_Δ_ne_zero (Δ_weierstrass_ne_zero h2 hdisc)).mp
      (onCurve_aff_iff_equation.mp hon)
  have hvalue : .aff x y = valueOf (.some _ _ hns) := denotes_iff.mp (.aff hred.1 hred.2 hns)
  refine ⟨.some _ _ hns, hvalue, WeierstrassCurve.Affine.Point.some_ne_zero hns, ?_⟩
  exact valueOf_eq_inf_iff.mp (eq_of_smul_valueOf (hvalue ▸ h)).symm

end

/-! ### Signing and verifying -/

/-- A signature comes from an affine `k*G`, with both of its numbers not 0 (R188). -/
theorem signCore_eq_ok {ec : EcdsaCtx} {eRaw dRaw k r sg : Nat} (hk : k ≠ 0)
    (h : signCore ec eRaw dRaw k = .ok (r, sg)) :
    ∃ xR yR, smul ec.c ec.g k = .ok (.aff xR yR) ∧ r = xR % ec.n ∧
      sg = signatureS ec.n (eRaw % ec.n) (dRaw % ec.n) k r ∧ r ≠ 0 ∧ sg ≠ 0 := by
  cases hsmul : smul ec.c ec.g k with
  | error kind =>
    rw [signCore_of_error hsmul] at h
    cases h
  | ok rp =>
    cases rp with
    | inf =>
      rw [signCore_of_inf hsmul] at h
      cases h
    | aff xR yR =>
      rw [signCore_of_aff hsmul] at h
      by_cases hbad : xR % ec.n = 0 ∨ signatureS ec.n (eRaw % ec.n) (dRaw % ec.n) k (xR % ec.n) = 0
      · rw [signFrom_of_bad hk hbad] at h
        cases h
      · obtain ⟨hr, hs⟩ := not_or.mp hbad
        rw [signFrom_of_good hk hr hs] at h
        cases h
        exact ⟨xR, yR, rfl, rfl, rfl, hr, hs⟩

/-- The verification's sum (R189, step 4): the point of the nonce, or, when both summands are one point, the failure. -/
theorem padd_summands {c : Curve} [Fact c.p.Prime] {g : (weierstrass c).Point} {u v k : Nat}
    (hsum : (u + v) • g = k • g) (hk : k • g ≠ 0) :
    (u • g ≠ v • g → padd c (valueOf (u • g)) (valueOf (v • g)) = .ok (valueOf (k • g))) ∧
    (u • g = v • g → padd c (valueOf (u • g)) (valueOf (v • g)) = .error .invalidPoint) := by
  rw [add_nsmul] at hsum
  refine ⟨fun hne => hsum ▸ padd_valueOf_of_ne hne, fun heq => ?_⟩
  rw [← heq] at hsum ⊢
  exact padd_valueOf_self (hsum ▸ hk)

end Sys2Proof.Machine
end

section
/-! The obligation about signatures and their verification (spec/42_ecdsa.md R190). -/

namespace Sys2Proof.Proofs
open Sys2Proof.Machine Sys2Proof.Spec

/-- Settles O45: `u1*G` and `u2*Q` are multiples of one element of order `n`, their scalars add up to the nonce, and
they are the same point exactly in the doubling case. -/
theorem signaturesVerifyExceptInTheDoublingCase : Obligations.SignaturesVerifyExceptInTheDoublingCase := by
  intro c gx gy n d k eRaw r sg q hp _ _ hdisc hgx hgy hn hn2 hng hd1 hdn hq hk1 hkn hsign
  have : Fact c.p.Prime := ⟨hp⟩
  have : Fact n.Prime := ⟨hn⟩
  obtain ⟨g, hg, h0, horder⟩ := exists_valueOf_of_odd_order ⟨hgx, hgy⟩ hdisc hn hn2 hng
  have hmul {h : (weierstrass c).Point} {u : Nat} (hh : h ≠ 0) (hnh : n • h = 0) (hu : u ≤ n) :
      smul c (valueOf h) u = .ok (valueOf (u • h)) := smul_valueOf hn hn2 hh hnh (by omega)
  obtain ⟨xR, yR, hR, hr, hsg, hr0, hs0⟩ := signCore_eq_ok (by omega) hsign
  have hdg : d • g ≠ 0 := nsmul_ne_zero_of_lt hn h0 horder hd1 hdn
  have hndg : n • d • g = 0 := by rw [nsmul_left_comm, horder, nsmul_zero]
  have hkg : k • g ≠ 0 := nsmul_ne_zero_of_lt hn h0 horder hk1 hkn
  rw [hg] at hq hR ⊢
  obtain rfl := Except.ok.inj ((hmul h0 horder hdn.le).symm.trans hq)
  have hR := Except.ok.inj ((hmul h0 horder hkn.le).symm.trans hR)
  have hu1 := hmul h0 horder (verifyScalar_lt (n := n) (sg := sg) (eRaw % n)).le
  have hu2 := hmul hdg hndg (verifyScalar_lt (n := n) (sg := sg) r).le
  rw [← mul_nsmul'] at hu2
  rw [verifyCore_of_summands (ec := ⟨c, valueOf g, n⟩) (mt valueOf_eq_inf_iff.mp hdg) hs0 hu1 hu2]
  have hsgn : sg < n := hsg ▸ Nat.mod_lt _ hn.pos
  rw [Nat.mod_eq_of_lt hdn] at hsg
  obtain ⟨hnonce, hdouble⟩ := natCast_verifyScalars (natCast_ne_zero_of_lt hkn (by omega)) hsg
    (natCast_ne_zero_of_lt hsgn hs0)
  obtain ⟨haccept, hfail⟩ := padd_summands ((nsmul_eq_nsmul_iff_natCast h0 horder).mpr hnonce) hkg
  have hcase : verifyScalar n sg (eRaw % n) • g = (verifyScalar n sg r * d) • g ↔ eRaw % n = r * d % n := by
    rw [nsmul_eq_nsmul_iff_natCast h0 horder, hdouble, ← Nat.cast_mul, ZMod.natCast_eq_natCast_iff', Nat.mod_mod]
  refine ⟨fun hne => ?accept, fun heq => ?fail⟩
  case accept =>
    rw [haccept (mt hcase.mp hne), hR, Except.map, verifyPoint, reduce, decide_eq_true hr.symm]
  case fail =>
    rw [hfail (hcase.mpr heq)]
    rfl

end Sys2Proof.Proofs
end
